-- ==== Sys2Proof/Word.lean ====
section
/-! DEFINITION. The word types of SCB (00_scope.md rules R8 and R9): every value is unsigned. -/

namespace Sys2Proof

/-- A CSR, a CFGMEM word or a command word: 32 bits (R8). -/
abbrev Word := BitVec 32

/-- A RegisterValue, a serial-bus byte or a BUF byte: 8 bits (R8). -/
abbrev Byte := BitVec 8

/-- A RegisterAddress operand: 16 bits; 8-bit mode sends its low byte only (R8, R102). -/
abbrev RegAddr := BitVec 16

/-- A host word index HADDR: 24 bits (R8, R70). -/
abbrev HAddr := BitVec 24

/-- The operand part OPND of a command word: 24 bits (R100). -/
abbrev Operand := BitVec 24

/-- `zext_32` of rule R9. -/
abbrev zext32 {n : Nat} (v : BitVec n) : Word := v.setWidth 32

/-- The upper byte of a 16-bit value, `v[15:8]` (R9). -/
abbrev hiByte (v : BitVec 16) : Byte := v.extractLsb' 8 8

/-- The lower byte of a 16-bit value, `v[7:0]` (R9). -/
abbrev loByte (v : BitVec 16) : Byte := v.extractLsb' 0 8

end Sys2Proof
end

