-- ==== Sys2Proof/Config.lean ====
section
/-! DEFINITION. What an implementation of SCB fixes (00_scope.md rule R7), what the world outside SCB decides
(R6, R14, R70, R270, R340), and the free values: constants without a body, of which nothing can be proved.
Log entries 1, 2, 5, 7, 8 and 9 say where each free value stands. -/

namespace Sys2Proof.Machine

/-- The parameters of rule R7. BUF_BYTES and CFG_WORDS are held less one, T_SETTLE, T_POLL and T_RETRY less their least
values, so that their ranges (92 D50, D42) are part of the data. Times are in nanoseconds, the model's resolution (log entry
17). -/
structure Params where
  /-- BUF_BYTES - 1; BUF_BYTES is 1 to 0x800000. -/
  bufLast : Fin 0x800000
  /-- CFG_WORDS - 1; CFG_WORDS is 1 to 65536. -/
  cfgLast : Fin 65536
  /-- SENSOR_ADDR, the sensor's device address on the register bus, below the frames of the model (92 D15). -/
  sensorAddr : BitVec 7
  /-- REG_TEST, the self-test's scratch register. -/
  regTest : Byte
  /-- TEST_PATTERN, the byte the self-test writes and expects back. -/
  testPattern : Byte
  /-- REG_FIFO, the FIFO flag and capture control register. -/
  regFifo : Byte
  /-- FIFO_CLEAR_MASK, written by flush. -/
  fifoClearMask : Byte
  /-- FIFO_START_MASK, written by trigger. -/
  fifoStartMask : Byte
  /-- REG_TRIG, the register of the capture-done bit. -/
  regTrig : Byte
  /-- CAP_DONE_MASK, the capture-done bit within REG_TRIG. -/
  capDoneMask : Byte
  /-- REG_SIZE1, the register of length byte 1. -/
  regSize1 : Byte
  /-- REG_SIZE2, the register of length byte 2. -/
  regSize2 : Byte
  /-- REG_SIZE3, the register of length byte 3. -/
  regSize3 : Byte
  /-- BURST_CMD, the control byte that enters burst mode. -/
  burstCmd : Byte
  /-- T_SETTLE beyond 10 µs. -/
  settleExtra : Nat
  /-- T_POLL beyond 5 µs. -/
  pollExtra : Nat
  /-- T_RETRY beyond 1 s. -/
  retryExtra : Nat
  /-- T_SAMPLE, the button sampling interval (92 D36). -/
  tSample : Nat
  deriving DecidableEq, Repr, Inhabited

/-- BUF_BYTES (R7). -/
def Params.bufBytes (p : Params) : Nat := p.bufLast.val + 1

/-- CFG_WORDS (R7). -/
def Params.cfgWords (p : Params) : Nat := p.cfgLast.val + 1

/-- T_SETTLE, at least 10 µs (R7, 92 D42). -/
def Params.tSettle (p : Params) : Nat := 10000 + p.settleExtra

/-- T_POLL, at least 5 µs (R7, 92 D42). -/
def Params.tPoll (p : Params) : Nat := 5000 + p.pollExtra

/-- T_RETRY, at least 1 s (R7, 92 D42). -/
def Params.tRetry (p : Params) : Nat := 1000000000 + p.retryExtra

/-- A button pin sample (R14, 43_button.md R270). -/
inductive Sample where
  | level (high : Bool)
  | invalid
  deriving DecidableEq, Repr, Inhabited

/-- The environment's answer to one bus primitive (R14, 92 D16). A byte that the primitive does not receive is not
looked at. -/
inductive Answer where
  | ok (byte : Byte)
  | unavailable
  | failure
  deriving DecidableEq, Repr, Inhabited

/-- One turn of an agent (R6), the model's own way to say which agent steps next (log entry 1). -/
inductive Turn where
  /-- The command engine takes `more + 1` of its atomic steps, no other agent stepping in between. -/
  | ce (more : Nat)
  /-- The button sampler takes one sample (43_button.md R270). -/
  | sample (s : Sample)
  /-- The host reads a word (20_memory.md R70). -/
  | hostRead (a : HAddr)
  /-- The host writes a word (20_memory.md R70). -/
  | hostWrite (a : HAddr) (w : Word)
  /-- The reset input is driven: asserted or released (70_reset_and_hazards.md R340). -/
  | resetInput (asserted : Bool)
  deriving DecidableEq, Repr, Inhabited

/-- SB_DUMMY, the byte transmitted when SCB only receives: 0x00 (R7). -/
def Config.sbDummy : Byte := 0x00#8

/-- The parameters of the implementation (R7): free. -/
opaque Config.params : Params

/-- The environment's answer where State decides none (R14): free, one for each count of free values taken. -/
opaque Config.freeAnswer : Nat → Answer

/-- Which agent steps where State decides none (R6): free, one for each count of free values taken. -/
opaque Config.freeTurn : Nat → Turn

/-- A word the spec calls "any value" (10_state.md R35, 20_memory.md R72 to R74): free, one for each count of free
values taken. -/
opaque Config.freeWord : Nat → Word

/-- A byte of CFGMEM that nothing has written since the reset of that number (R341): free. -/
opaque Config.unwrittenCfg : Nat → Nat → Byte

/-- A byte of BUF that nothing has written since the reset of that number (R341): free. -/
opaque Config.unwrittenBuf : Nat → Nat → Byte

end Sys2Proof.Machine
end

