-- ==== Sys2Proof/Syntax.lean ====
section
/-! DEFINITION. The commands of SCB (30_encoding.md rule R103): one constructor for each row of
spec/opcode_table.json, with the operands of its format (R101) at their exact widths (R102). -/

namespace Sys2Proof

/-- The operand formats of rule R101. -/
inductive Format where
  | n | m | ra | rr | b | w | c | l | t | k | s | sr
  deriving DecidableEq, Repr

/-- A command with its operands (R103). Every operand is an unsigned field of the command word (R102). -/
inductive Instr where
  /-- NOP (R140). -/
  | nop
  /-- BUS_OPEN mask (R142). -/
  | busOpen (mask : BitVec 2)
  /-- BUS_CLOSE mask (R144). -/
  | busClose (mask : BitVec 2)
  /-- RB_WRITE addr, val (R146). -/
  | rbWrite (addr : RegAddr) (val : Byte)
  /-- RB_READ addr (R148). -/
  | rbRead (addr : RegAddr)
  /-- SB_XFER_BYTE byte (R150). -/
  | sbXferByte (byte : Byte)
  /-- SB_XFER_WORD word (R152). -/
  | sbXferWord (word : BitVec 16)
  /-- SB_CS a (R154). -/
  | sbCs (a : BitVec 1)
  /-- CFG_APPLY base (R182). -/
  | cfgApply (base : BitVec 16)
  /-- CFG_READ base (R186). -/
  | cfgRead (base : BitVec 16)
  /-- FCC_SELFTEST maxatt (R212). -/
  | fccSelfTest (maxAtt : BitVec 16)
  /-- FCC_FLUSH (R216). -/
  | fccFlush
  /-- FCC_TRIGGER (R218). -/
  | fccTrigger
  /-- FCC_POLLDONE (R220). -/
  | fccPollDone
  /-- FCC_READLEN (R224). -/
  | fccReadLen
  /-- FCC_BURSTREAD cap (R228). -/
  | fccBurstRead (cap : BitVec 24)
  /-- FCC_SINGLECAPTURE cap (R236). -/
  | fccSingleCapture (cap : BitVec 24)
  /-- FCC_WRITE_REG reg, val (R246). -/
  | fccWriteReg (reg val : Byte)
  /-- FCC_READ_REG reg (R248). -/
  | fccReadReg (reg : Byte)
  /-- FCC_SETBIT reg, mask (R254). -/
  | fccSetBit (reg mask : Byte)
  /-- FCC_CLRBIT reg, mask (R256). -/
  | fccClrBit (reg mask : Byte)
  /-- FCC_GETBIT reg, mask (R258). -/
  | fccGetBit (reg mask : Byte)
  /-- BTN_ARM_WAIT (R280). -/
  | btnArmWait
  deriving DecidableEq, Repr

/-- The operand format of a command (R103). -/
def Instr.format : Instr → Format
  | .nop => .n
  | .busOpen _ => .m
  | .busClose _ => .m
  | .rbWrite _ _ => .ra
  | .rbRead _ => .rr
  | .sbXferByte _ => .b
  | .sbXferWord _ => .w
  | .sbCs _ => .c
  | .cfgApply _ => .l
  | .cfgRead _ => .l
  | .fccSelfTest _ => .t
  | .fccFlush => .n
  | .fccTrigger => .n
  | .fccPollDone => .n
  | .fccReadLen => .n
  | .fccBurstRead _ => .k
  | .fccSingleCapture _ => .k
  | .fccWriteReg _ _ => .s
  | .fccReadReg _ => .sr
  | .fccSetBit _ _ => .s
  | .fccClrBit _ _ => .s
  | .fccGetBit _ _ => .s
  | .btnArmWait => .n

end Sys2Proof
end

