-- ==== Sys2Proof/WellFormed.lean ====
section
/-! DEFINITION. What makes a command word or a command illegal (30_encoding.md rule R104): a reserved operand
bit that is 1 (b), an address too wide for 8-bit mode (c), a capacity over BUF_BYTES (d). The unknown opcode (a)
is the decoder's. -/

namespace Sys2Proof

/-- The operand bits a format marks reserved (R101): 1 where the bit must be zero. -/
def Format.reserved : Format → Operand
  | .n => 0xFFFFFF#24
  | .m => 0xFFFFFC#24
  | .ra => 0x000000#24
  | .rr => 0x0000FF#24
  | .b => 0xFFFF00#24
  | .w => 0xFF0000#24
  | .c => 0xFFFFFE#24
  | .l => 0xFF0000#24
  | .t => 0xFF0000#24
  | .k => 0x000000#24
  | .s => 0xFF0000#24
  | .sr => 0xFF00FF#24

/-- Every reserved operand bit of the format is zero (R104 (b)). -/
def Format.reservedClear (f : Format) (opnd : Operand) : Bool :=
  opnd &&& f.reserved == 0#24

/-- A register address fits the register bus's address width: any address when CFG.AW = 1, `ADDR[15:8] = 0`
when CFG.AW = 0 (R104 (c), R102, R181). -/
def addressFits (aw : Bool) (addr : RegAddr) : Bool :=
  aw || hiByte addr == 0#8

/-- A capacity operand is at most BUF_BYTES (R104 (d)). -/
def capacityFits (bufBytes : Nat) (cap : BitVec 24) : Bool :=
  decide (cap.toNat ≤ bufBytes)

/-- A command is legal under the address width CFG.AW and the capacity BUF_BYTES (R104 (c) and (d)); the checks
(a) and (b) concern the word and stand in the decoder. -/
def Instr.wellFormed (aw : Bool) (bufBytes : Nat) : Instr → Bool
  | .rbWrite addr _ => addressFits aw addr
  | .rbRead addr => addressFits aw addr
  | .fccBurstRead cap => capacityFits bufBytes cap
  | .fccSingleCapture cap => capacityFits bufBytes cap
  | .nop => true
  | .busOpen _ => true
  | .busClose _ => true
  | .sbXferByte _ => true
  | .sbXferWord _ => true
  | .sbCs _ => true
  | .cfgApply _ => true
  | .cfgRead _ => true
  | .fccSelfTest _ => true
  | .fccFlush => true
  | .fccTrigger => true
  | .fccPollDone => true
  | .fccReadLen => true
  | .fccWriteReg _ _ => true
  | .fccReadReg _ => true
  | .fccSetBit _ _ => true
  | .fccClrBit _ _ => true
  | .fccGetBit _ _ => true
  | .btnArmWait => true

end Sys2Proof
end

