-- ==== Sys2Proof/Decode.lean ====
section
/-! DEFINITION. Decoding a command word and encoding a command (30_encoding.md rules R100 to R104). Decoding is
total: a word that is no command is rejected by the name of the check of rule R104 that it fails. -/

namespace Sys2Proof

/-- Why a word is no command (R104 (a), (b)). -/
inductive DecodeError where
  /-- OPC is not in the table of rule R103. -/
  | unknownOpcode
  /-- A reserved bit of the opcode's format is 1. -/
  | reservedBitSet
  deriving DecidableEq, Repr

/-- OPC, bits 31:24 of a command word (R100). -/
def opcodeOfWord (w : Word) : Byte := w.extractLsb' 24 8

/-- OPND, bits 23:0 of a command word (R100). -/
def operandOfWord (w : Word) : Operand := w.extractLsb' 0 24

/-- The field MASK of format M (R101). -/
def fieldMask2 (o : Operand) : BitVec 2 := o.extractLsb' 0 2

/-- The field ADDR of formats RA and RR (R101). -/
def fieldAddr (o : Operand) : RegAddr := o.extractLsb' 8 16

/-- The low byte of OPND: VAL, BYTE or MASK of formats RA, B and S (R101). -/
def fieldByte (o : Operand) : Byte := o.extractLsb' 0 8

/-- The field REG of formats S and SR (R101). -/
def fieldReg (o : Operand) : Byte := o.extractLsb' 8 8

/-- The low half of OPND: WORD, BASE or MAXATT of formats W, L and T (R101). -/
def fieldHalf (o : Operand) : BitVec 16 := o.extractLsb' 0 16

/-- The field A of format C (R101). -/
def fieldA (o : Operand) : BitVec 1 := o.extractLsb' 0 1

/-- The command an opcode selects, with the fields of its format read from the operand (R101 to R103). -/
def instrOf (opc : Byte) (o : Operand) : Option Instr :=
  match opc with
  | 0x00#8 => some .nop
  | 0x01#8 => some (.busOpen (fieldMask2 o))
  | 0x02#8 => some (.busClose (fieldMask2 o))
  | 0x10#8 => some (.rbWrite (fieldAddr o) (fieldByte o))
  | 0x11#8 => some (.rbRead (fieldAddr o))
  | 0x18#8 => some (.sbXferByte (fieldByte o))
  | 0x19#8 => some (.sbXferWord (fieldHalf o))
  | 0x1A#8 => some (.sbCs (fieldA o))
  | 0x20#8 => some (.cfgApply (fieldHalf o))
  | 0x21#8 => some (.cfgRead (fieldHalf o))
  | 0x30#8 => some (.fccSelfTest (fieldHalf o))
  | 0x31#8 => some .fccFlush
  | 0x32#8 => some .fccTrigger
  | 0x33#8 => some .fccPollDone
  | 0x34#8 => some .fccReadLen
  | 0x35#8 => some (.fccBurstRead o)
  | 0x36#8 => some (.fccSingleCapture o)
  | 0x38#8 => some (.fccWriteReg (fieldReg o) (fieldByte o))
  | 0x39#8 => some (.fccReadReg (fieldReg o))
  | 0x3A#8 => some (.fccSetBit (fieldReg o) (fieldByte o))
  | 0x3B#8 => some (.fccClrBit (fieldReg o) (fieldByte o))
  | 0x3C#8 => some (.fccGetBit (fieldReg o) (fieldByte o))
  | 0x40#8 => some .btnArmWait
  | _ => none

/-- Decode a command word: the checks (a) and (b) of rule R104 in that order. -/
def decode (w : Word) : Except DecodeError Instr :=
  match instrOf (opcodeOfWord w) (operandOfWord w) with
  | none => .error .unknownOpcode
  | some i =>
    if i.format.reservedClear (operandOfWord w) then .ok i else .error .reservedBitSet

/-- The opcode of a command (R103). -/
def opcodeOf : Instr → Byte
  | .nop => 0x00#8
  | .busOpen _ => 0x01#8
  | .busClose _ => 0x02#8
  | .rbWrite _ _ => 0x10#8
  | .rbRead _ => 0x11#8
  | .sbXferByte _ => 0x18#8
  | .sbXferWord _ => 0x19#8
  | .sbCs _ => 0x1A#8
  | .cfgApply _ => 0x20#8
  | .cfgRead _ => 0x21#8
  | .fccSelfTest _ => 0x30#8
  | .fccFlush => 0x31#8
  | .fccTrigger => 0x32#8
  | .fccPollDone => 0x33#8
  | .fccReadLen => 0x34#8
  | .fccBurstRead _ => 0x35#8
  | .fccSingleCapture _ => 0x36#8
  | .fccWriteReg _ _ => 0x38#8
  | .fccReadReg _ => 0x39#8
  | .fccSetBit _ _ => 0x3A#8
  | .fccClrBit _ _ => 0x3B#8
  | .fccGetBit _ _ => 0x3C#8
  | .btnArmWait => 0x40#8

/-- The operand bits of a command, its reserved bits zero (R101). -/
def operandOf : Instr → Operand
  | .nop => 0#24
  | .busOpen mask => 0#22 ++ mask
  | .busClose mask => 0#22 ++ mask
  | .rbWrite addr val => addr ++ val
  | .rbRead addr => addr ++ 0#8
  | .sbXferByte byte => 0#16 ++ byte
  | .sbXferWord word => 0#8 ++ word
  | .sbCs a => 0#23 ++ a
  | .cfgApply base => 0#8 ++ base
  | .cfgRead base => 0#8 ++ base
  | .fccSelfTest maxAtt => 0#8 ++ maxAtt
  | .fccFlush => 0#24
  | .fccTrigger => 0#24
  | .fccPollDone => 0#24
  | .fccReadLen => 0#24
  | .fccBurstRead cap => cap
  | .fccSingleCapture cap => cap
  | .fccWriteReg reg val => (0#8 ++ reg : BitVec 16) ++ val
  | .fccReadReg reg => (0#8 ++ reg : BitVec 16) ++ 0#8
  | .fccSetBit reg mask => (0#8 ++ reg : BitVec 16) ++ mask
  | .fccClrBit reg mask => (0#8 ++ reg : BitVec 16) ++ mask
  | .fccGetBit reg mask => (0#8 ++ reg : BitVec 16) ++ mask
  | .btnArmWait => 0#24

/-- The command word of a command: OPC above OPND (R100). -/
def encode (i : Instr) : Word := opcodeOf i ++ operandOf i

/-- The command the decoder reads from a command word whose low `nbits` bits are those of `w`, the bits above
them zero (a command word is one 32-bit host word, R100). -/
def decodeTableWord (nbits w : Nat) : Option Instr :=
  match decode (BitVec.ofNat 32 (w % 2 ^ nbits)) with
  | .ok i => some i
  | .error _ => none

end Sys2Proof
end

