-- ==== Sys2Proof/Machine/State.lean ====
section
/-! DEFINITION. The state of SCB (10_state.md rule R30), the events of its history (R52), the reasons a step can
stop, and the state after reset (70_reset_and_hazards.md rule R341). -/

namespace Sys2Proof.Machine

/-- The error codes 1 to 8 of rule R300; 0 is the absence of one, 9 to 15 are never produced. -/
inductive Err where
  | busUnavailable
  | ioFailure
  | protocolMismatch
  | bufferOverflow
  | illegalCommand
  | illegalState
  | malformedEntry
  | listOverrun
  deriving DecidableEq, Repr

/-- FIFOState (R42). -/
inductive Fst where
  | idle
  | capturing
  | done
  deriving DecidableEq, Repr

/-- ButtonEdgeState (R43). -/
inductive Bst where
  | armed
  | pressed
  deriving DecidableEq, Repr

/-- CFG.EDGE (R36); the value 3 cannot be stored (R37). -/
inductive Edge where
  | any
  | rising
  | falling
  deriving DecidableEq, Repr

/-- The two buses (00_scope.md R12). -/
inductive Bus where
  | rb
  | sb
  deriving DecidableEq, Repr

/-- The waits of the `Delay` primitive, each named by its parameter T_SETTLE, T_POLL or T_RETRY (R7, R12); `Wait.least`
is the parameter's value. -/
inductive Wait where
  | settle
  | poll
  | retry
  deriving DecidableEq, Repr

/-- What a primitive that receives a byte returns (R12). -/
inductive Reply where
  | byte (b : Byte)
  | failed (e : Err)
  deriving DecidableEq, Repr

/-- What became of a host write (R31, R32, R37, 20_memory.md R72 to R74). -/
inductive WriteOutcome where
  /-- The write was performed. -/
  | performed
  /-- A read-only or reserved CSR: ignored, no status bit (R31, R41). -/
  | ignored
  /-- A CMD write dropped because BUSY = 1: OVR set (R32). -/
  | overrun
  /-- Dropped, HERR set (R37, R72 to R74). -/
  | refused
  deriving DecidableEq, Repr

/-- An event of the history (R52): a primitive step of rule R12 with its arguments and outcome, or a host access
with its outcome. -/
inductive Event where
  | rbWrite (bytes : List Byte) (outcome : Option Err)
  | rbRead (bytes : List Byte) (reply : Reply)
  | sbXfer (tx : Byte) (reply : Reply)
  | sbCs (asserted : Bool)
  | busOpen (b : Bus) (outcome : Option Err)
  | busClose (b : Bus)
  | delay (t : Wait)
  | cfgRead (i : Nat) (w : Word)
  | cfgWrite (i : Nat) (w : Word)
  | bufWrite (k : Nat) (b : Byte)
  | hostRead (a : HAddr) (w : Word) (refused : Bool)
  | hostWrite (a : HAddr) (w : Word) (outcome : WriteOutcome)
  deriving DecidableEq, Repr

/-- The fields of STATUS that are state of their own: the sticky bits and the error (R33). -/
structure Status where
  /-- CDONE. -/
  cdone : Bool
  /-- OVR. -/
  ovr : Bool
  /-- HERR. -/
  herr : Bool
  /-- ERR; `none` is code 0. -/
  err : Option Err
  deriving DecidableEq, Repr

/-- CFG (R36). -/
structure Cfg where
  /-- AW: 16-bit register-bus addresses. -/
  aw : Bool
  /-- EDGE. -/
  edge : Edge
  /-- DBN. -/
  dbn : BitVec 4
  /-- IE. -/
  ie : Bool
  deriving DecidableEq, Repr

/-- RBUP, SBUP and CS (R44). -/
structure BusState where
  /-- RBUP. -/
  rbUp : Bool
  /-- SBUP. -/
  sbUp : Bool
  /-- CS. -/
  cs : Bool
  deriving DecidableEq, Repr

/-- BST (R43) and the button sampler's state (R46). -/
structure Button where
  /-- BST. -/
  bst : Bst
  /-- DLEVEL; LVALID and LEVEL are views of it. -/
  dlevel : Option Bool
  /-- CAND. -/
  cand : Option Bool
  /-- CNT. -/
  cnt : BitVec 4
  /-- PEND. -/
  pend : Bool
  /-- PLEVEL. -/
  plevel : Bool
  deriving DecidableEq, Repr

/-- The command engine's in-flight state (R45, R50): the latched command word, the position in the command's
pseudocode and the local values of it. -/
structure Flight where
  /-- The latched command word. -/
  word : Word
  /-- The position in the pseudocode (R50). -/
  pos : Nat
  /-- The error a failed primitive hands to its caller (R211), or a failed attempt's outcome (R212). -/
  outcome : Option Err
  /-- The list index i (R182). -/
  i : Nat
  /-- The count n of entries completed (R188). -/
  n : Word
  /-- The entry e read from CFGMEM (R182). -/
  e : Word
  /-- The byte counter k of a burst (R228). -/
  k : Nat
  /-- The attempt counter a (R212). -/
  a : Word
  /-- The byte received, r or v of the pseudocode. -/
  v : Byte
  /-- The first byte of a word transfer (R152). -/
  hi : Byte
  /-- Length byte 1 (R211). -/
  b1 : Byte
  /-- Length byte 2 (R211). -/
  b2 : Byte
  /-- Length byte 3 (R211). -/
  b3 : Byte
  /-- The FIFO length len (R228). -/
  len : BitVec 23
  deriving DecidableEq, Repr

/-- A memory: (address, byte) cells in strictly rising order of the address. An address without a cell has not been
written since reset. -/
abbrev Memory := List Host.Cell

/-- The one canonical form of a memory: addresses strictly rising. A cell that is not listed reads as no value, so no
listed cell equals an unlisted one. -/
abbrev Memory.wf (m : Memory) : Prop := m.Pairwise (fun x y => x.1 < y.1)

/-- The world outside SCB, the model's own (log entries 1, 2, 14 and 21). -/
structure World where
  /-- The reset input is asserted (R340). -/
  inReset : Bool
  /-- The turns already decided, next first. -/
  turns : List Turn
  /-- The environment's answers already decided, next first. -/
  answers : List Answer
  /-- How many free values were taken. -/
  tick : Nat
  /-- How many resets there were. -/
  epoch : Nat
  deriving DecidableEq, Repr

/-- The state of SCB (R30), with the parameters (R7) and the world outside as plain data beside it. -/
structure State where
  /-- The parameters of rule R7, which no step writes. -/
  params : Params
  /-- STATUS: the sticky bits and ERR. -/
  status : Status
  /-- RESULT (R35). -/
  result : Word
  /-- CFG (R36). -/
  cfg : Cfg
  /-- BUFLEN (R38). -/
  bufLen : BitVec 24
  /-- FST (R42). -/
  fst : Fst
  /-- RBUP, SBUP, CS (R44). -/
  bus : BusState
  /-- BST and the button sampler (R43, R46). -/
  button : Button
  /-- The command in flight (R45); BUSY is its presence. -/
  ce : Option Flight
  /-- CFGMEM (R47); word i is the bytes 4i to 4i+3, least significant first (log entry 10). -/
  cfgmem : Memory
  /-- BUF (R48). -/
  buf : Memory
  /-- The event history (R52), oldest first. -/
  history : List Event
  /-- The world outside. -/
  world : World
  deriving DecidableEq, Repr

/-- Why the model stops with a fault. SCB itself has none (60_exceptions.md R312); no run from reset reaches these. -/
inductive Fault where
  /-- Raised by a command's meaning when no command is in flight: the engine executes nothing then (R45). Safe: the
  step never calls a meaning in such a state. -/
  | engineIdle
  /-- Raised by a command's meaning when the position in flight lies outside the command's pseudocode. Safe: the spec
  gives no such position. -/
  | strayPosition
  deriving DecidableEq, Repr

/-- Why the model refuses to go on. -/
inductive Refusal where
  /-- Raised by an arm of exec for a command without a meaning; no arm does. Safe. -/
  | notModelled (mnemonic : String)
  deriving DecidableEq, Repr

/-- BUSY: a command is in flight (R33, R45). -/
def State.busy (s : State) : Bool := s.ce.isSome

/-- The state of rule R341 for given parameters, with an empty history and nothing decided about the world. -/
def State.resetWith (p : Params) : State where
  params := p
  status := { cdone := false, ovr := false, herr := false, err := none }
  result := 0#32
  cfg := { aw := false, edge := .any, dbn := 1#4, ie := false }
  bufLen := 0#24
  fst := .idle
  bus := { rbUp := false, sbUp := false, cs := false }
  button := { bst := .armed, dlevel := none, cand := none, cnt := 0#4, pend := false, plevel := false }
  ce := none
  cfgmem := []
  buf := []
  history := []
  world := { inReset := false, turns := [], answers := [], tick := 0, epoch := 0 }

/-- The machine right after reset (R341), its parameters the free constant `Config.params` (log entry 5). -/
def State.reset : State := State.resetWith Config.params

end Sys2Proof.Machine
end

