-- ==== Sys2Proof/Machine/Flags.lean ====
section
/-! DEFINITION. The words the CSRs read as and what writing them does (10_state.md rules R31 to R41), the error codes
(60_exceptions.md rule R300) and the interrupt output (R53, R310). -/

namespace Sys2Proof.Machine

/-- The error code of rule R300. -/
def Err.code : Err → BitVec 4
  | .busUnavailable => 1#4
  | .ioFailure => 2#4
  | .protocolMismatch => 3#4
  | .bufferOverflow => 4#4
  | .illegalCommand => 5#4
  | .illegalState => 6#4
  | .malformedEntry => 7#4
  | .listOverrun => 8#4

/-- STATUS.ERR: 0 when there is no error (R33, R300). -/
def errCode : Option Err → BitVec 4
  | none => 0#4
  | some e => e.code

/-- STATUS.FST (R33). -/
def Fst.code : Fst → BitVec 2
  | .idle => 0#2
  | .capturing => 1#2
  | .done => 2#2

/-- STATUS.BST (R33). -/
def Bst.code : Bst → BitVec 1
  | .armed => 0#1
  | .pressed => 1#1

/-- CFG.EDGE (R36). -/
def Edge.code : Edge → BitVec 2
  | .any => 0#2
  | .rising => 1#2
  | .falling => 2#2

/-- STATUS.LVALID: the debounced level is known (R33, R46). -/
def Button.lvalid (b : Button) : Bool := b.dlevel.isSome

/-- STATUS.LEVEL: the debounced level, 0 when LVALID = 0 (R33, R46). -/
def Button.level (b : Button) : Bool := b.dlevel.getD false

/-- The word STATUS reads as (R33): bits 31:17 are zero, then PEND, LEVEL, LVALID, CS, SBUP, RBUP, BST, FST, ERR,
HERR, OVR, CDONE and BUSY down to bit 0. -/
def statusWord (s : State) : Word :=
  0#15 ++ BitVec.ofBool s.button.pend ++ BitVec.ofBool s.button.level ++ BitVec.ofBool s.button.lvalid
    ++ BitVec.ofBool s.bus.cs ++ BitVec.ofBool s.bus.sbUp ++ BitVec.ofBool s.bus.rbUp ++ s.button.bst.code
    ++ s.fst.code ++ errCode s.status.err ++ BitVec.ofBool s.status.herr ++ BitVec.ofBool s.status.ovr
    ++ BitVec.ofBool s.status.cdone ++ BitVec.ofBool s.busy

/-- A host write to STATUS clears CDONE, OVR and HERR where the written bit is 1 (R34). -/
def Status.writeOneToClear (t : Status) (w : Word) : Status where
  cdone := t.cdone && !w.getLsbD 1
  ovr := t.ovr && !w.getLsbD 2
  herr := t.herr && !w.getLsbD 3
  err := t.err

/-- The word CFG reads as (R36). -/
def cfgWord (c : Cfg) : Word :=
  0#24 ++ BitVec.ofBool c.ie ++ c.dbn ++ c.edge.code ++ BitVec.ofBool c.aw

/-- EDGE after writing the field: 3 keeps the old value (R37). -/
def Edge.write (old : Edge) (field : BitVec 2) : Edge :=
  if field = 0#2 then .any
  else if field = 1#2 then .rising
  else if field = 2#2 then .falling
  else old

/-- CFG after an accepted host write (R37). -/
def Cfg.write (c : Cfg) (w : Word) : Cfg where
  aw := w.getLsbD 0
  edge := c.edge.write (w.extractLsb' 1 2)
  dbn := w.extractLsb' 3 4
  ie := w.getLsbD 7

/-- The word BUFLEN reads as (R38). -/
def bufLenWord (len : BitVec 24) : Word := zext32 len

/-- The word CAPS0 reads as: BUF_BYTES (R39). -/
def caps0Word (p : Params) : Word := zext32 (BitVec.ofNat 24 p.bufBytes)

/-- The word CAPS1 reads as: CFG_WORDS (R40). -/
def caps1Word (p : Params) : Word := zext32 (BitVec.ofNat 17 p.cfgWords)

/-- The interrupt output: CDONE and IE (R53, R310). -/
def State.irq (s : State) : Bool := s.status.cdone && s.cfg.ie

/-- The number of consecutive equal samples that accept a level: DBN, 0 acting as 1 (R272). -/
def Cfg.debounce (c : Cfg) : BitVec 4 := if c.dbn = 0#4 then 1#4 else c.dbn

/-- The edge filter of rule R274. -/
def Edge.accepts (e : Edge) (old new : Bool) : Bool :=
  match e with
  | .any => true
  | .rising => !old && new
  | .falling => old && !new

end Sys2Proof.Machine
end

