-- ==== Sys2Proof/Machine/Operands.lean ====
section
/-! DEFINITION. The data SCB reads and the frames it puts on its buses (30_encoding.md rules R110 to R118). -/

namespace Sys2Proof.Machine

/-- The argument of the `Delay` primitive of a wait: the least time it lasts, no upper bound being given (R7, R12,
70_reset_and_hazards.md R371). -/
def Wait.least (p : Params) : Wait → Nat
  | .settle => p.tSettle
  | .poll => p.tPoll
  | .retry => p.tRetry

/-- The address bytes of a register-bus frame: the low byte alone in 8-bit mode, high byte first in 16-bit mode
(R111, R112, R75 (a)). -/
def rbAddressBytes (aw : Bool) (addr : RegAddr) : List Byte :=
  if aw then [hiByte addr, loByte addr] else [loByte addr]

/-- The bytes of a register-bus write frame (R111). -/
def rbWriteBytes (aw : Bool) (addr : RegAddr) (val : Byte) : List Byte :=
  rbAddressBytes aw addr ++ [val]

/-- The bytes a register-bus read frame sends (R112). -/
def rbReadBytes (aw : Bool) (addr : RegAddr) : List Byte :=
  rbAddressBytes aw addr

/-- ADDR of a ConfigurationEntry word: bits 15:0 (R110). -/
def entryAddr (e : Word) : RegAddr := e.extractLsb' 0 16

/-- VAL of a ConfigurationEntry word: bits 23:16 (R110). -/
def entryVal (e : Word) : Byte := e.extractLsb' 16 8

/-- The entry with VAL replaced, ADDR and bits 31:24 kept (R186). -/
def entryWithVal (e : Word) (v : Byte) : Word :=
  (e &&& 0xFF00FFFF#32) ||| (zext32 v <<< 16)

/-- An 8-bit-mode entry whose ADDR[15:8] is not zero (R181). -/
def entryMalformed (aw : Bool) (e : Word) : Bool :=
  !addressFits aw (entryAddr e)

/-- The termination test of rule R113. -/
def isSentinel (aw : Bool) (e : Word) : Bool :=
  if aw then entryAddr e == 0xFFFF#16 && entryVal e == 0xFF#8
  else loByte (entryAddr e) == 0xFF#8 && entryVal e == 0xFF#8

/-- The address byte of an FCC register write: bit 0x80 set (R114). -/
def fccWriteAddress (reg : Byte) : Byte := reg ||| 0x80#8

/-- The address byte of an FCC register read: masked with 0x7F (R115). -/
def fccReadAddress (reg : Byte) : Byte := reg &&& 0x7F#8

/-- A received serial-bus word: the first byte is the upper one (R116). -/
def xferWord (hi lo : Byte) : BitVec 16 := hi ++ lo

/-- The FIFO length, masked to 23 bits (R117). -/
def fifoLength (b1 b2 b3 : Byte) : BitVec 23 :=
  (((zext32 b3 <<< 16) ||| (zext32 b2 <<< 8) ||| zext32 b1) &&& 0x7FFFFF#32).setWidth 23

end Sys2Proof.Machine
end

