-- ==== Sys2Proof/Machine/Ops.lean ====
section
/-! DEFINITION. The operations every command is built from: the memories (00_scope.md rule R11), the bus and time
primitives (R12), the environment's answers (R14), raising an error and completing (R13, 60_exceptions.md R308),
accepting a command word (R307), reset (70_reset_and_hazards.md R340), and the engine that runs a command's pseudocode
one atomic step at a time (R12, R15, R45). -/

namespace Sys2Proof.Machine

/-! ## Memories -/

/-- The byte a memory holds at an address, if one was written. -/
def Memory.get? : Memory → Nat → Option Byte
  | [], _ => none
  | (x, b) :: rest, a => if x = a then some b else Memory.get? rest a

/-- Write one byte, keeping the canonical form. -/
def Memory.set : Memory → Nat → Byte → Memory
  | [], a, b => [(a, b)]
  | (x, y) :: rest, a, b =>
    if a < x then (a, b) :: (x, y) :: rest
    else if a = x then (a, b) :: rest
    else (x, y) :: Memory.set rest a b

/-- Write a 32-bit word as the bytes 4i to 4i+3, least significant first. -/
def Memory.setWord (m : Memory) (i : Nat) (w : Word) : Memory :=
  (((m.set (4 * i) (w.extractLsb' 0 8)).set (4 * i + 1) (w.extractLsb' 8 8)).set (4 * i + 2)
    (w.extractLsb' 16 8)).set (4 * i + 3) (w.extractLsb' 24 8)

/-- A byte of CFGMEM: the one written since reset, or the free value of this reset (R47, R341). -/
def State.cfgByte (s : State) (a : Nat) : Byte :=
  (Memory.get? s.cfgmem a).getD (Config.unwrittenCfg s.world.epoch a)

/-- A byte of BUF: the one written since reset, or the free value of this reset (R48, R341). -/
def State.bufByte (s : State) (k : Nat) : Byte :=
  (Memory.get? s.buf k).getD (Config.unwrittenBuf s.world.epoch k)

/-- Four bytes as a word, the first least significant. -/
def wordOfBytes (b0 b1 b2 b3 : Byte) : Word := b3 ++ b2 ++ b1 ++ b0

/-- `MemRead(CFG, i)` (R11). -/
def State.cfgWordAt (s : State) (i : Nat) : Word :=
  wordOfBytes (s.cfgByte (4 * i)) (s.cfgByte (4 * i + 1)) (s.cfgByte (4 * i + 2)) (s.cfgByte (4 * i + 3))

/-- Byte k of BUF as the host's window shows it: 0 at and beyond BUF_BYTES (20_memory.md R73). -/
def State.windowByte (s : State) (k : Nat) : Byte :=
  if k < s.params.bufBytes then s.bufByte k else 0#8

/-- Word w of the BUF window, little-endian (20_memory.md R73, R75 (e)). -/
def State.bufWordAt (s : State) (w : Nat) : Word :=
  wordOfBytes (s.windowByte (4 * w)) (s.windowByte (4 * w + 1)) (s.windowByte (4 * w + 2)) (s.windowByte (4 * w + 3))

/-! ## The world outside: answers, free words, turns -/

/-- The environment's next answer (R14): the next one decided, else a free one. -/
def World.drawAnswer (x : World) : Answer × World :=
  match x.answers with
  | a :: rest => (a, { x with answers := rest })
  | [] => (Config.freeAnswer x.tick, { x with tick := x.tick + 1 })

/-- A word the spec calls "any value": free. -/
def World.drawWord (x : World) : Word × World :=
  (Config.freeWord x.tick, { x with tick := x.tick + 1 })

/-- The world with a turn decided: the next one decided, else a free one placed in front. -/
def World.ready (x : World) : World :=
  match x.turns with
  | [] => { x with turns := [Config.freeTurn x.tick], tick := x.tick + 1 }
  | _ :: _ => x

/-- The world after its first turn is taken. -/
def World.dropTurn (x : World) : World := { x with turns := x.turns.drop 1 }

/-- How many CE steps beyond the first the turn at the front gives; none where it is no turn of the CE. -/
def World.moreSteps (x : World) : Nat :=
  match x.turns with
  | .ce more :: _ => more
  | _ => 0

/-- The outcome of a register-bus frame: any answer but `ok` is its error (92 D16). -/
def Answer.rbError : Answer → Option Err
  | .ok _ => none
  | .unavailable => some .busUnavailable
  | .failure => some .ioFailure

/-- The outcome of a serial-bus byte transfer: its only error is IOFailure (92 D16). -/
def Answer.sbError : Answer → Option Err
  | .ok _ => none
  | .unavailable => some .ioFailure
  | .failure => some .ioFailure

/-- The outcome of a bus open: its only error is BusUnavailable (92 D16). -/
def Answer.openError : Answer → Option Err
  | .ok _ => none
  | .unavailable => some .busUnavailable
  | .failure => some .busUnavailable

/-- The byte an answer carries. -/
def Answer.byte : Answer → Byte
  | .ok b => b
  | .unavailable => 0#8
  | .failure => 0#8

/-- The reply of a primitive whose outcome is `err` and whose byte is `b`. -/
def replyOf (err : Option Err) (b : Byte) : Reply :=
  match err with
  | none => .byte b
  | some e => .failed e

/-! ## Events, bus state, completion -/

/-- Record an event (R52). -/
def State.record (s : State) (e : Event) : State := { s with history := s.history ++ [e] }

/-- `SBCS(a)`: drive chip select and record it (R12). -/
def State.driveCs (s : State) (a : Bool) : State :=
  { s with bus := { s.bus with cs := a } }.record (.sbCs a)

/-- STATUS.RBUP or STATUS.SBUP (R44). -/
def BusState.up (b : BusState) : Bus → Bool
  | .rb => b.rbUp
  | .sb => b.sbUp

/-- `STATUS.RBUP <- v` or `STATUS.SBUP <- v` (R142, R144). -/
def BusState.setUp (b : BusState) (which : Bus) (v : Bool) : BusState :=
  match which with
  | .rb => { b with rbUp := v }
  | .sb => { b with sbUp := v }

/-- The completion step (60_exceptions.md R308): ERR, RESULT, CDONE and BUSY in one atomic step, the latched word and
every local discarded. -/
def State.finish (s : State) (err : Option Err) (result : Word) : State :=
  { s with status := { s.status with cdone := true, err := err }, result := result, ce := none }

/-- The completion step of an error whose rule does not define RESULT: any value (R35, R301). -/
def State.finishFree (s : State) (e : Err) : State :=
  { s with world := s.world.drawWord.2 }.finish (some e) s.world.drawWord.1

/-- The position before the first step of a command whose word is `w`, no local having a value yet (R307). -/
def Flight.start (w : Word) : Flight where
  word := w
  pos := 0
  outcome := none
  i := 0
  n := 0#32
  e := 0#32
  k := 0
  a := 0#32
  v := 0#8
  hi := 0#8
  b1 := 0#8
  b2 := 0#8
  b3 := 0#8
  len := 0#23

/-- Accept a command word (60_exceptions.md R307): it is latched, BUSY <- 1, CDONE <- 0, ERR <- 0. -/
def State.accept (s : State) (w : Word) : State :=
  { s with status := { s.status with cdone := false, err := none }, ce := some (Flight.start w) }

/-- The opcodes whose RESULT is defined on every error: CFG_APPLY, CFG_READ and FCC_SELFTEST (R35, R188, R301). -/
def resultDefinedOnError (opc : Byte) : Bool := opc == 0x20#8 || opc == 0x21#8 || opc == 0x30#8

/-- The CE's step on a word that is no command (30_encoding.md R104 (a), (b)): IllegalCommand, nothing else touched.
RESULT is 0 for the opcodes that define it on error (R188; log entry 12), else any value. -/
def State.illegalWord (s : State) (w : Word) : State :=
  if resultDefinedOnError (opcodeOfWord w) then s.finish (some .illegalCommand) 0#32
  else s.finishFree .illegalCommand

/-! ## Reset -/

/-- The reset values (70_reset_and_hazards.md R341): every piece of state but the event history. CFGMEM and BUF read
as free values of the new reset. -/
def State.afterReset (s : State) : State :=
  { State.resetWith s.params with
    history := s.history
    world := { s.world with epoch := s.world.epoch + 1 } }

/-- The reset input is driven (R340). While it is asserted the state holds the reset values; releasing it leaves them.
Releasing a released input does nothing. -/
def State.driveReset (s : State) (asserted : Bool) : State :=
  if asserted || s.world.inReset then
    { s.afterReset with world := { s.afterReset.world with inReset := asserted } }
  else s

/-! ## The pseudocode of a command

A command's rule gives pseudocode (R15). It is written here as a list of operations, one for each line; the CE performs
one of them in each of its atomic steps, and the position in flight is an index into the list (R45, R50). -/

/-- A condition of the pseudocode. -/
inductive Cond where
  /-- STATUS.RBUP = 1 or STATUS.SBUP = 1. -/
  | busUp (b : Bus)
  /-- STATUS.CS = 1. -/
  | csAsserted
  /-- STATUS.FST = x. -/
  | fstIs (x : Fst)
  /-- The address operand fits the address width (R104 (c)). -/
  | addressFits (addr : RegAddr)
  /-- The capacity operand is at most BUF_BYTES (R104 (d)). -/
  | capacityFits (cap : BitVec 24)
  /-- i >= CFG_WORDS (R185). -/
  | listEnd
  /-- The entry e is malformed (R181). -/
  | malformed
  /-- is_sentinel(e) (R113). -/
  | sentinel
  /-- (v & mask) != 0. -/
  | bitSet (mask : Byte)
  /-- v = b. -/
  | received (b : Byte)
  /-- MAXATT != 0 and a >= MAXATT (R212). -/
  | attemptsSpent (maxAtt : BitVec 16)
  /-- len > CAP (R228). -/
  | lengthOver (cap : BitVec 24)
  /-- k < len (R228). -/
  | moreBytes
  /-- The condition does not hold. -/
  | not (c : Cond)
  deriving DecidableEq, Repr

/-- Where a received byte goes. -/
inductive Slot where
  | discard | v | hi | b1 | b2 | b3
  deriving DecidableEq, Repr

/-- The byte a transfer sends. -/
inductive Tx where
  /-- A given byte. -/
  | byte (b : Byte)
  /-- v | mask (R254). -/
  | vOr (mask : Byte)
  /-- v & ~mask (R256). -/
  | vAndNot (mask : Byte)
  deriving DecidableEq, Repr

/-- The value of `complete`. -/
inductive Val where
  /-- 0. -/
  | zero
  /-- zext_32(v). -/
  | v
  /-- zext_32 of the word received high byte first (R152). -/
  | word
  /-- The entries completed, n (R188). -/
  | n
  /-- The attempts made, a (R212). -/
  | a
  /-- zext_32(len). -/
  | len
  /-- zext_32 of the assembled length bytes (R224). -/
  | lengthBytes
  /-- zext_32(v & mask) (R258). -/
  | masked (mask : Byte)
  /-- 1 when (v & mask) != 0, else 0 (R220). -/
  | bit (mask : Byte)
  deriving DecidableEq, Repr

/-- RESULT after an error of the command (R13, R35, R301). -/
inductive ErrResult where
  /-- Any value. -/
  | free
  /-- The entries completed, n (R188). -/
  | entries
  /-- The attempts made, a (R212). -/
  | attempts
  deriving DecidableEq, Repr

/-- One line of pseudocode: a primitive of rule R12, a test, an assignment, or an end of the command (R13). -/
inductive Op where
  /-- `if c: raise e`. -/
  | raiseIf (c : Cond) (e : Err)
  /-- `if c:` hand the error e to the handler. -/
  | failIf (c : Cond) (e : Err)
  /-- Raise the error that was handed to the handler. -/
  | reraise
  /-- `if c:` pass over the next count operations. -/
  | skipIf (c : Cond) (count : Nat)
  /-- Go back count operations. -/
  | back (count : Nat)
  /-- `complete(x)`. -/
  | complete (x : Val)
  /-- `RBWrite` of an address and a value. -/
  | rbWrite (addr : RegAddr) (val : Byte)
  /-- `RBWrite` of the entry e. -/
  | rbWriteEntry
  /-- `v = RBRead` of an address. -/
  | rbRead (addr : RegAddr)
  /-- `v = RBRead` of the entry e's address. -/
  | rbReadEntry
  /-- `SBXfer(tx)`, the received byte kept in a local. -/
  | xfer (tx : Tx) (slot : Slot)
  /-- `SBCS(a)`. -/
  | cs (a : Bool)
  /-- `SBCS(0)` if CS = 1. -/
  | csRelease
  /-- `BusOpen(b)`. -/
  | busOpen (b : Bus)
  /-- `BusClose(b)`. -/
  | busClose (b : Bus)
  /-- `STATUS.RBUP <- v` or `STATUS.SBUP <- v`. -/
  | setUp (b : Bus) (v : Bool)
  /-- `Delay(t)`. -/
  | delay (t : Wait)
  /-- `n = 0; i = BASE`. -/
  | startList (base : BitVec 16)
  /-- `e = MemRead(CFG, i)`. -/
  | readEntry
  /-- `MemWrite(CFG, i, e with VAL v)`. -/
  | writeBack
  /-- `n <- n + 1; i <- i + 1`. -/
  | nextEntry
  /-- `if a < 0xFFFFFFFF: a <- a + 1`. -/
  | attempt
  /-- `STATUS.FST <- x`. -/
  | setFst (x : Fst)
  /-- `len = ` the assembled length bytes. -/
  | assembleLength
  /-- `BUFLEN <- 0; k = 0`. -/
  | startBuffer
  /-- `MemWrite(BUF, k, 1, v); k <- k + 1`. -/
  | storeByte
  /-- `BUFLEN <- len`. -/
  | setBufLen
  /-- `PEND <- 0; BST <- Armed`. -/
  | arm
  /-- `wait until PEND = 1`, then take the edge and complete. -/
  | awaitEdge
  deriving DecidableEq, Repr

/-- A command's pseudocode: the main operations, then the handler that a failed primitive goes to (R13, R211), and what
RESULT holds after an error. -/
structure Prog where
  /-- The operations from the first step of the rule on. -/
  main : List Op
  /-- Where a failed primitive goes on. -/
  handler : List Op
  /-- RESULT after an error. -/
  errResult : ErrResult
  deriving DecidableEq, Repr

/-- All operations of a command; the handler stands behind the main operations. -/
def Prog.code (p : Prog) : List Op := p.main ++ p.handler

/-- Whether a condition holds. -/
def Cond.holds (f : Flight) (s : State) : Cond → Bool
  | .busUp b => s.bus.up b
  | .csAsserted => s.bus.cs
  | .fstIs x => s.fst == x
  | .addressFits addr => Sys2Proof.addressFits s.cfg.aw addr
  | .capacityFits cap => Sys2Proof.capacityFits s.params.bufBytes cap
  | .listEnd => decide (s.params.cfgWords ≤ f.i)
  | .malformed => entryMalformed s.cfg.aw f.e
  | .sentinel => isSentinel s.cfg.aw f.e
  | .bitSet mask => f.v &&& mask != 0#8
  | .received b => f.v == b
  | .attemptsSpent maxAtt => maxAtt != 0#16 && decide ((zext32 maxAtt).toNat ≤ f.a.toNat)
  | .lengthOver cap => decide (cap.toNat < f.len.toNat)
  | .moreBytes => decide (f.k < f.len.toNat)
  | .not c => !c.holds f s

/-- The byte a transfer sends. -/
def Tx.value (f : Flight) : Tx → Byte
  | .byte b => b
  | .vOr mask => f.v ||| mask
  | .vAndNot mask => f.v &&& ~~~mask

/-- Keep a received byte in a local. -/
def Flight.keep (f : Flight) (b : Byte) : Slot → Flight
  | .discard => f
  | .v => { f with v := b }
  | .hi => { f with hi := b }
  | .b1 => { f with b1 := b }
  | .b2 => { f with b2 := b }
  | .b3 => { f with b3 := b }

/-- The value of `complete`. -/
def Val.value (f : Flight) : Val → Word
  | .zero => 0#32
  | .v => zext32 f.v
  | .word => zext32 (xferWord f.hi f.v)
  | .n => f.n
  | .a => f.a
  | .len => zext32 f.len
  | .lengthBytes => zext32 (fifoLength f.b1 f.b2 f.b3)
  | .masked mask => zext32 (f.v &&& mask)
  | .bit mask => if f.v &&& mask != 0#8 then 1#32 else 0#32

/-- The attempt counter after one more attempt, saturating (R212). -/
def saturatingSucc (a : Word) : Word := if a = 0xFFFFFFFF#32 then a else a + 1#32

/-- Go on at the next operation with the given locals. -/
def State.advance (s : State) (f : Flight) : State :=
  { s with ce := some { f with pos := f.pos + 1 } }

/-- Go on at a position. -/
def State.goto (s : State) (f : Flight) (pos : Nat) : State :=
  { s with ce := some { f with pos := pos } }

/-- Hand an error to the command's handler. -/
def State.fail (s : State) (p : Prog) (f : Flight) (e : Err) : State :=
  { s with ce := some { f with pos := p.main.length, outcome := some e } }

/-- `raise e` (R13): the command ends with the error's code, RESULT as its rule says. -/
def State.raise (s : State) (p : Prog) (f : Flight) (e : Err) : State :=
  match p.errResult with
  | .free => s.finishFree e
  | .entries => s.finish (some e) f.n
  | .attempts => s.finish (some e) f.a

/-- Go on after a primitive: at the next operation with the given locals, or in the handler with its error. -/
def State.settle (s : State) (p : Prog) (f : Flight) (err : Option Err) (f' : Flight) : State :=
  match err with
  | none => s.advance f'
  | some e => s.fail p f e

/-- The world after one answer. -/
def State.answered (s : State) : State := { s with world := s.world.drawAnswer.2 }

/-- The environment's next answer. -/
def State.answer (s : State) : Answer := s.world.drawAnswer.1

/-- `RBWrite(bytes)`, recorded with its outcome (R12). -/
def State.rbWriteFrame (s : State) (p : Prog) (f : Flight) (bytes : List Byte) : State :=
  (s.answered.record (.rbWrite bytes s.answer.rbError)).settle p f s.answer.rbError f

/-- `v = RBRead(bytes)`, recorded with its outcome (R12). -/
def State.rbReadFrame (s : State) (p : Prog) (f : Flight) (bytes : List Byte) : State :=
  (s.answered.record (.rbRead bytes (replyOf s.answer.rbError s.answer.byte))).settle p f s.answer.rbError
    { f with v := s.answer.byte }

/-- `SBXfer(tx)`, recorded with its outcome, the received byte kept (R12). -/
def State.sbTransfer (s : State) (p : Prog) (f : Flight) (tx : Byte) (slot : Slot) : State :=
  (s.answered.record (.sbXfer tx (replyOf s.answer.sbError s.answer.byte))).settle p f s.answer.sbError
    (f.keep s.answer.byte slot)

/-- `BusOpen(b)`, recorded with its outcome (R12). -/
def State.openBus (s : State) (p : Prog) (f : Flight) (b : Bus) : State :=
  (s.answered.record (.busOpen b s.answer.openError)).settle p f s.answer.openError f

/-- `MemWrite(CFG, i, w)` by the CE (R11), defined for i < CFG_WORDS only; elsewhere the CE is stuck. -/
def State.ceWriteCfg (s : State) (f : Flight) (i : Nat) (w : Word) : State :=
  if i < s.params.cfgWords then
    (({ s with cfgmem := s.cfgmem.setWord i w }).record (.cfgWrite i w)).advance f
  else s

/-- `MemWrite(BUF, k, 1, b); k <- k + 1` by the CE (R11, R228), defined for k < BUF_BYTES only; elsewhere the CE is
stuck. -/
def State.ceWriteBuf (s : State) (f : Flight) (b : Byte) : State :=
  if f.k < s.params.bufBytes then
    (({ s with buf := s.buf.set f.k b }).record (.bufWrite f.k b)).advance { f with k := f.k + 1 }
  else s

/-- `e = MemRead(CFG, i)` by the CE (R11), defined for i < CFG_WORDS only; elsewhere the CE is stuck. -/
def State.ceReadCfg (s : State) (f : Flight) : State :=
  if f.i < s.params.cfgWords then
    (s.record (.cfgRead f.i (s.cfgWordAt f.i))).advance { f with e := s.cfgWordAt f.i }
  else s

/-- The end of the wait for an edge, one atomic step (43_button.md R280): PEND <- 0, BST <- Pressed, RESULT <- the
edge's level. While PEND = 0 the CE makes no step (R281). -/
def State.takeEdge (s : State) : State :=
  if s.button.pend then
    { s with button := { s.button with pend := false, bst := .pressed } }.finish none
      (zext32 (BitVec.ofBool s.button.plevel))
  else s

/-- One atomic step of the CE: perform one operation of the command's pseudocode. -/
def runOp (p : Prog) (f : Flight) (s : State) : Op → State
  | .raiseIf c e => if c.holds f s then s.raise p f e else s.advance f
  | .failIf c e => if c.holds f s then s.fail p f e else s.advance f
  | .reraise => match f.outcome with
    | some e => s.raise p f e
    | none => s
  | .skipIf c count => if c.holds f s then s.goto f (f.pos + 1 + count) else s.advance f
  | .back count => s.goto f (f.pos - count)
  | .complete x => s.finish none (x.value f)
  | .rbWrite addr val => s.rbWriteFrame p f (rbWriteBytes s.cfg.aw addr val)
  | .rbWriteEntry => s.rbWriteFrame p f (rbWriteBytes s.cfg.aw (entryAddr f.e) (entryVal f.e))
  | .rbRead addr => s.rbReadFrame p f (rbReadBytes s.cfg.aw addr)
  | .rbReadEntry => s.rbReadFrame p f (rbReadBytes s.cfg.aw (entryAddr f.e))
  | .xfer tx slot => s.sbTransfer p f (tx.value f) slot
  | .cs a => (s.driveCs a).advance f
  | .csRelease => if s.bus.cs then (s.driveCs false).advance f else s.advance f
  | .busOpen b => s.openBus p f b
  | .busClose b => (s.record (.busClose b)).advance f
  | .setUp b v => { s with bus := s.bus.setUp b v }.advance f
  | .delay t => (s.record (.delay t)).advance f
  | .startList base => s.advance { f with n := 0#32, i := base.toNat }
  | .readEntry => s.ceReadCfg f
  | .writeBack => s.ceWriteCfg f f.i (entryWithVal f.e f.v)
  | .nextEntry => s.advance { f with n := f.n + 1#32, i := f.i + 1 }
  | .attempt => s.advance { f with a := saturatingSucc f.a }
  | .setFst x => { s with fst := x }.advance f
  | .assembleLength => s.advance { f with len := fifoLength f.b1 f.b2 f.b3 }
  | .startBuffer => { s with bufLen := 0#24 }.advance { f with k := 0 }
  | .storeByte => s.ceWriteBuf f f.v
  | .setBufLen => { s with bufLen := f.len.setWidth 24 }.advance f
  | .arm => { s with button := { s.button with pend := false, bst := .armed } }.advance f
  | .awaitEdge => s.takeEdge

/-- One atomic step of the CE on a command's pseudocode; no step when no command is in flight or the position lies
outside (R12, R45). -/
def ceStep (p : Prog) (s : State) : State :=
  match s.ce with
  | none => s
  | some f =>
    match p.code[f.pos]? with
    | none => s
    | some op => runOp p f s op

/-- `count` atomic steps of the CE in a row; it makes no step after completion. -/
def ceSteps (p : Prog) : Nat → State → State
  | 0, s => s
  | count + 1, s => ceSteps p count (ceStep p s)

/-- A command's meaning: the CE takes the turn at the front, that is its atomic steps on the command's pseudocode from
the position in flight on. -/
def runCommand (p : Prog) (s : State) : Host.Outcome State Fault Refusal :=
  match s.ce with
  | none => .fault .engineIdle
  | some f =>
    if f.pos < p.code.length then
      .next (ceSteps p (s.world.moreSteps + 1) { s with world := s.world.dropTurn })
    else .fault .strayPosition

/-! ## Procedures of the pseudocode -/

/-- The handler of the commands that only report a failed primitive (40_bus_primitives.md R143). -/
def reportHandler : List Op := [.reraise]

/-- The handler of the FCC commands: chip select is released, then the error raised (42_fifo_capture.md R211). -/
def releaseHandler : List Op := [.csRelease, .reraise]

/-- `proc WriteReg(reg, v)` (R211, R114). -/
def writeRegOps (reg : Byte) (val : Tx) : List Op :=
  [.cs true, .xfer (.byte (fccWriteAddress reg)) .discard, .xfer val .discard, .cs false]

/-- `proc ReadReg(reg)`, the value kept in a local (R211, R115). -/
def readRegOps (reg : Byte) (slot : Slot) : List Op :=
  [.cs true, .xfer (.byte (fccReadAddress reg)) .discard, .xfer (.byte Config.sbDummy) slot, .cs false]

/-- The three reads of `proc ReadLength()` in the order of R211 (92 D26). -/
def readLengthOps (q : Params) : List Op :=
  readRegOps q.regSize1 .b1 ++ readRegOps q.regSize2 .b2 ++ readRegOps q.regSize3 .b3

/-- `proc BurstFrame(len)` (R228, R118). -/
def burstFrameOps (q : Params) : List Op :=
  [.startBuffer,
   .cs true,
   .xfer (.byte q.burstCmd) .discard,
   .skipIf (.not .moreBytes) 3,
   .xfer (.byte Config.sbDummy) .v,
   .storeByte,
   .back 3,
   .cs false,
   .setBufLen]

/-- The checks (a) and (b) of every FCC command (R210). -/
def fccChecks : List Op :=
  [.raiseIf (.not (.busUp .sb)) .busUnavailable,
   .raiseIf .csAsserted .illegalState]

/-- `len = ReadLength()`, the overflow test, the burst frame, and `complete(len)` (R228). -/
def burstReadOps (q : Params) (cap : BitVec 24) : List Op :=
  readLengthOps q ++ [.assembleLength, .raiseIf (.lengthOver cap) .bufferOverflow] ++ burstFrameOps q ++
    [.complete .len]

end Sys2Proof.Machine
end

