-- ==== Sys2Proof/Machine/Button.lean ====
section
/-! DEFINITION. The button edge detector (43_button.md): the sampler's step and BTN_ARM_WAIT. -/

namespace Sys2Proof.Machine

/-- The run of equal samples after one more valid sample: CAND and CNT (R271). -/
def Button.extendRun (b : Button) (level : Bool) : Button :=
  if b.cand = some level then { b with cnt := if b.cnt = 15#4 then 15#4 else b.cnt + 1#4 }
  else { b with cand := some level, cnt := 1#4 }

/-- An accepted level: DLEVEL takes it, and an edge that the filter accepts is latched (R271, R273, R274, R276). -/
def Button.acceptLevel (b : Button) (edge : Edge) (level : Bool) : Button :=
  match b.dlevel with
  | none => { b with dlevel := some level }
  | some old =>
    if edge.accepts old level then
      { b with dlevel := some level, pend := true, plevel := level, bst := .pressed }
    else { b with dlevel := some level }

/-- One sampler step on a valid sample (R271, R272). -/
def Button.sampleLevel (b : Button) (c : Cfg) (level : Bool) : Button :=
  if c.debounce.toNat ≤ (b.extendRun level).cnt.toNat ∧ (b.extendRun level).dlevel ≠ some level then
    (b.extendRun level).acceptLevel c.edge level
  else b.extendRun level

/-- One sampler step (R271); an invalid sample changes nothing (R275). -/
def State.samplePin (s : State) : Sample → State
  | .invalid => s
  | .level high => { s with button := s.button.sampleLevel s.cfg high }

/-- BTN_ARM_WAIT (R280). -/
def btnArmWaitProg : Prog where
  main := [.arm, .awaitEdge]
  handler := reportHandler
  errResult := .free

/-- BTN_ARM_WAIT (R280). -/
def execBtnArmWait (s : State) : Host.Outcome State Fault Refusal := runCommand btnArmWaitProg s

end Sys2Proof.Machine
end

