-- ==== Sys2Proof/Machine/HostPort.lean ====
section
/-! DEFINITION. The host port (20_memory.md rules R70 to R74, 10_state.md rules R31 to R41): the address map and
what a host read and a host write do. -/

namespace Sys2Proof.Machine

/-- The regions of the address map (R71). -/
inductive Region where
  | csr (index : Nat)
  | cfgmem (i : Nat)
  | bufWindow (w : Nat)
  | unmapped
  deriving DecidableEq, Repr

/-- How many words the BUF window has: BUF_BYTES / 4, rounded up (R71). -/
def Params.bufWords (p : Params) : Nat := (p.bufBytes + 3) / 4

/-- The region of a host address (R71). -/
def regionOf (p : Params) (a : HAddr) : Region :=
  let n := a.toNat
  if n < 0x10 then .csr n
  else if 0x10000 ≤ n ∧ n < 0x10000 + p.cfgWords then .cfgmem (n - 0x10000)
  else if 0x400000 ≤ n ∧ n < 0x400000 + p.bufWords then .bufWindow (n - 0x400000)
  else .unmapped

/-- The word a CSR reads as (R31): CMD reads 0, reserved indices read 0 (R41). -/
def csrRead (s : State) (index : Nat) : Word :=
  match index with
  | 1 => statusWord s
  | 2 => s.result
  | 3 => cfgWord s.cfg
  | 4 => bufLenWord s.bufLen
  | 5 => caps0Word s.params
  | 6 => caps1Word s.params
  | _ => 0#32

/-- Set STATUS.HERR (R304). -/
def State.setHerr (s : State) : State := { s with status := { s.status with herr := true } }

/-- Set STATUS.OVR (R32). -/
def State.setOvr (s : State) : State := { s with status := { s.status with ovr := true } }

/-- A host read that is answered. -/
def State.readDone (s : State) (a : HAddr) (w : Word) : State := s.record (.hostRead a w false)

/-- A host read that returns any value and sets HERR (R72 to R74). -/
def State.readRefused (s : State) (a : HAddr) : State :=
  ({ s with world := s.world.drawWord.2 }.setHerr).record (.hostRead a s.world.drawWord.1 true)

/-- One host read (R31, R72 to R74); the word read is in the recorded event. -/
def State.hostRead (s : State) (a : HAddr) : State :=
  match regionOf s.params a with
  | .csr index => s.readDone a (csrRead s index)
  | .cfgmem i => if s.busy then s.readRefused a else s.readDone a (s.cfgWordAt i)
  | .bufWindow w => if s.busy then s.readRefused a else s.readDone a (s.bufWordAt w)
  | .unmapped => s.readRefused a

/-- A host write that is dropped and sets HERR (R37, R72 to R74). -/
def State.writeRefused (s : State) (a : HAddr) (w : Word) : State :=
  s.setHerr.record (.hostWrite a w .refused)

/-- A host write to CMD (R32, R307). -/
def State.writeCmd (s : State) (a : HAddr) (w : Word) : State :=
  if s.busy then s.setOvr.record (.hostWrite a w .overrun)
  else (s.accept w).record (.hostWrite a w .performed)

/-- A host write to STATUS (R34). -/
def State.writeStatus (s : State) (a : HAddr) (w : Word) : State :=
  { s with status := s.status.writeOneToClear w }.record (.hostWrite a w .performed)

/-- A host write to CFG (R37). -/
def State.writeCfg (s : State) (a : HAddr) (w : Word) : State :=
  if s.busy then s.writeRefused a w
  else { s with cfg := s.cfg.write w }.record (.hostWrite a w .performed)

/-- A host write to a CSR (R31): read-only and reserved ones ignore it. -/
def State.writeCsr (s : State) (index : Nat) (a : HAddr) (w : Word) : State :=
  match index with
  | 0 => s.writeCmd a w
  | 1 => s.writeStatus a w
  | 3 => s.writeCfg a w
  | _ => s.record (.hostWrite a w .ignored)

/-- One host write (R31, R72 to R74). -/
def State.hostWrite (s : State) (a : HAddr) (w : Word) : State :=
  match regionOf s.params a with
  | .csr index => s.writeCsr index a w
  | .cfgmem i =>
    if s.busy then s.writeRefused a w
    else { s with cfgmem := s.cfgmem.setWord i w }.record (.hostWrite a w .performed)
  | .bufWindow _ => s.writeRefused a w
  | .unmapped => s.writeRefused a w

end Sys2Proof.Machine
end

