-- ==== Sys2Proof/Machine/Agents.lean ====
section
/-! DEFINITION. The parts of a step that stand around a command's meaning: taking the turn at the front
(00_scope.md rule R6), fetching the latched command word (10_state.md R45), and the turns of the agents other than the
command engine. -/

namespace Sys2Proof.Machine

/-- The state with a turn decided (R6). -/
def State.ready (s : State) : State := { s with world := s.world.ready }

/-- The state after its first turn is taken. -/
def State.dropTurn (s : State) : State := { s with world := s.world.dropTurn }

/-- The command the engine has latched: none when it is idle, else what its word decodes to (R45, R307). -/
def State.fetch (s : State) : Option (Word × Except DecodeError Instr) :=
  match s.ce with
  | none => none
  | some f => some (f.word, decode f.word)

/-- The turn of an agent other than the command engine; the CE's own turn is not one of them. While the reset input
is asserted no agent steps and host accesses have no effect (R340). -/
def State.otherTurn (s : State) : Turn → State
  | .ce _ => s.dropTurn
  | .sample v => if s.world.inReset then s.dropTurn else s.dropTurn.samplePin v
  | .hostRead a => if s.world.inReset then s.dropTurn else s.dropTurn.hostRead a
  | .hostWrite a w => if s.world.inReset then s.dropTurn else s.dropTurn.hostWrite a w
  | .resetInput asserted => s.dropTurn.driveReset asserted

/-- How many CE steps beyond the first `withFetchWord` gives the command. -/
def fetchedSteps : Nat := 63

end Sys2Proof.Machine
end

