-- ==== Sys2Proof/Machine/Bus.lean ====
section
/-! DEFINITION. The bus primitive and control commands (40_bus_primitives.md). Each `…Prog` is the pseudocode of the
command's rule; its meaning runs it. -/

namespace Sys2Proof.Machine

/-- NOP (R140). -/
def nopProg : Prog where
  main := [.complete .zero]
  handler := reportHandler
  errResult := .free

/-- NOP (R140). -/
def execNop (s : State) : Host.Outcome State Fault Refusal := runCommand nopProg s

/-- Bring one bus up if the mask asks for it and it is down (R142). -/
def openOps (wanted : Bool) (b : Bus) : List Op :=
  if wanted then [.skipIf (.busUp b) 2, .busOpen b, .setUp b true] else []

/-- BUS_OPEN mask (R142). -/
def busOpenProg (mask : BitVec 2) : Prog where
  main := openOps (mask.getLsbD 0) .rb ++ openOps (mask.getLsbD 1) .sb ++ [.complete .zero]
  handler := reportHandler
  errResult := .free

/-- BUS_OPEN mask (R142). -/
def execBusOpen (mask : BitVec 2) (s : State) : Host.Outcome State Fault Refusal :=
  runCommand (busOpenProg mask) s

/-- Take the register bus down if it is up (R144). -/
def closeRbOps (wanted : Bool) : List Op :=
  if wanted then [.skipIf (.not (.busUp .rb)) 2, .busClose .rb, .setUp .rb false] else []

/-- Take the serial bus down if it is up, chip select deasserted first (R144). -/
def closeSbOps (wanted : Bool) : List Op :=
  if wanted then [.skipIf (.not (.busUp .sb)) 3, .csRelease, .busClose .sb, .setUp .sb false] else []

/-- BUS_CLOSE mask (R144). -/
def busCloseProg (mask : BitVec 2) : Prog where
  main := closeRbOps (mask.getLsbD 0) ++ closeSbOps (mask.getLsbD 1) ++ [.complete .zero]
  handler := reportHandler
  errResult := .free

/-- BUS_CLOSE mask (R144). -/
def execBusClose (mask : BitVec 2) (s : State) : Host.Outcome State Fault Refusal :=
  runCommand (busCloseProg mask) s

/-- RB_WRITE addr, val (R146, R104 (c), R141). -/
def rbWriteProg (addr : RegAddr) (val : Byte) : Prog where
  main :=
    [.raiseIf (.not (.addressFits addr)) .illegalCommand,
     .raiseIf (.not (.busUp .rb)) .busUnavailable,
     .rbWrite addr val,
     .complete .zero]
  handler := reportHandler
  errResult := .free

/-- RB_WRITE addr, val (R146). -/
def execRbWrite (addr : RegAddr) (val : Byte) (s : State) : Host.Outcome State Fault Refusal :=
  runCommand (rbWriteProg addr val) s

/-- RB_READ addr (R148, R104 (c), R141). -/
def rbReadProg (addr : RegAddr) : Prog where
  main :=
    [.raiseIf (.not (.addressFits addr)) .illegalCommand,
     .raiseIf (.not (.busUp .rb)) .busUnavailable,
     .rbRead addr,
     .complete .v]
  handler := reportHandler
  errResult := .free

/-- RB_READ addr (R148). -/
def execRbRead (addr : RegAddr) (s : State) : Host.Outcome State Fault Refusal :=
  runCommand (rbReadProg addr) s

/-- SB_XFER_BYTE byte (R150, R141); chip select is not touched (R145). -/
def sbXferByteProg (byte : Byte) : Prog where
  main :=
    [.raiseIf (.not (.busUp .sb)) .busUnavailable,
     .xfer (.byte byte) .v,
     .complete .v]
  handler := reportHandler
  errResult := .free

/-- SB_XFER_BYTE byte (R150). -/
def execSbXferByte (byte : Byte) (s : State) : Host.Outcome State Fault Refusal :=
  runCommand (sbXferByteProg byte) s

/-- SB_XFER_WORD word, the upper byte first both ways (R152, R116, R141). -/
def sbXferWordProg (word : BitVec 16) : Prog where
  main :=
    [.raiseIf (.not (.busUp .sb)) .busUnavailable,
     .xfer (.byte (hiByte word)) .hi,
     .xfer (.byte (loByte word)) .v,
     .complete .word]
  handler := reportHandler
  errResult := .free

/-- SB_XFER_WORD word (R152). -/
def execSbXferWord (word : BitVec 16) (s : State) : Host.Outcome State Fault Refusal :=
  runCommand (sbXferWordProg word) s

/-- SB_CS a (R154, R141). -/
def sbCsProg (a : BitVec 1) : Prog where
  main :=
    [.raiseIf (.not (.busUp .sb)) .busUnavailable,
     .cs (a == 1#1),
     .complete .zero]
  handler := reportHandler
  errResult := .free

/-- SB_CS a (R154). -/
def execSbCs (a : BitVec 1) (s : State) : Host.Outcome State Fault Refusal :=
  runCommand (sbCsProg a) s

end Sys2Proof.Machine
end

