-- ==== Sys2Proof/Machine/Capture.lean ====
section
/-! DEFINITION. The FIFO capture controller (42_fifo_capture.md). Every command makes the checks of rule R210 in its
order and releases chip select on a failed transfer (R211). -/

namespace Sys2Proof.Machine

/-- FCC_SELFTEST maxatt (R212). A failed transfer or a mismatch ends the attempt in the handler, which gives up after
MAXATT attempts and else waits and tries again. -/
def fccSelfTestProg (q : Params) (maxAtt : BitVec 16) : Prog where
  main := fccChecks ++ [.attempt] ++ writeRegOps q.regTest (.byte q.testPattern) ++ readRegOps q.regTest .v ++
    [.failIf (.not (.received q.testPattern)) .protocolMismatch,
     .complete .a]
  handler :=
    [.csRelease,
     .skipIf (.not (.attemptsSpent maxAtt)) 1,
     .reraise,
     .delay .retry,
     .back 15]
  errResult := .attempts

/-- FCC_SELFTEST maxatt (R212). -/
def execFccSelfTest (maxAtt : BitVec 16) (s : State) : Host.Outcome State Fault Refusal :=
  runCommand (fccSelfTestProg s.params maxAtt) s

/-- FCC_FLUSH (R216). -/
def fccFlushProg (q : Params) : Prog where
  main := fccChecks ++ [.raiseIf (.fstIs .capturing) .illegalState] ++
    writeRegOps q.regFifo (.byte q.fifoClearMask) ++
    [.setFst .idle,
     .complete .zero]
  handler := releaseHandler
  errResult := .free

/-- FCC_FLUSH (R216). -/
def execFccFlush (s : State) : Host.Outcome State Fault Refusal := runCommand (fccFlushProg s.params) s

/-- FCC_TRIGGER (R218). -/
def fccTriggerProg (q : Params) : Prog where
  main := fccChecks ++ [.raiseIf (.not (.fstIs .idle)) .illegalState] ++
    writeRegOps q.regFifo (.byte q.fifoStartMask) ++
    [.setFst .capturing,
     .complete .zero]
  handler := releaseHandler
  errResult := .free

/-- FCC_TRIGGER (R218). -/
def execFccTrigger (s : State) : Host.Outcome State Fault Refusal := runCommand (fccTriggerProg s.params) s

/-- FCC_POLLDONE (R220): one read; Done from Capturing only. -/
def fccPollDoneProg (q : Params) : Prog where
  main := fccChecks ++ readRegOps q.regTrig .v ++
    [.skipIf (.not (.bitSet q.capDoneMask)) 2,
     .skipIf (.not (.fstIs .capturing)) 1,
     .setFst .done,
     .complete (.bit q.capDoneMask)]
  handler := releaseHandler
  errResult := .free

/-- FCC_POLLDONE (R220). -/
def execFccPollDone (s : State) : Host.Outcome State Fault Refusal := runCommand (fccPollDoneProg s.params) s

/-- FCC_READLEN (R224). -/
def fccReadLenProg (q : Params) : Prog where
  main := fccChecks ++ readLengthOps q ++ [.complete .lengthBytes]
  handler := releaseHandler
  errResult := .free

/-- FCC_READLEN (R224). -/
def execFccReadLen (s : State) : Host.Outcome State Fault Refusal := runCommand (fccReadLenProg s.params) s

/-- FCC_BURSTREAD cap (R228, R104 (d)). -/
def fccBurstReadProg (q : Params) (cap : BitVec 24) : Prog where
  main := [.raiseIf (.not (.capacityFits cap)) .illegalCommand] ++ fccChecks ++
    [.raiseIf (.not (.fstIs .done)) .illegalState] ++ burstReadOps q cap
  handler := releaseHandler
  errResult := .free

/-- FCC_BURSTREAD cap (R228). -/
def execFccBurstRead (cap : BitVec 24) (s : State) : Host.Outcome State Fault Refusal :=
  runCommand (fccBurstReadProg s.params cap) s

/-- FCC_SINGLECAPTURE cap (R236): flush, trigger, poll without a bound, burst read. -/
def fccSingleCaptureProg (q : Params) (cap : BitVec 24) : Prog where
  main := [.raiseIf (.not (.capacityFits cap)) .illegalCommand] ++ fccChecks ++
    [.raiseIf (.fstIs .capturing) .illegalState] ++
    writeRegOps q.regFifo (.byte q.fifoClearMask) ++ [.setFst .idle] ++
    writeRegOps q.regFifo (.byte q.fifoStartMask) ++ [.setFst .capturing] ++
    readRegOps q.regTrig .v ++
    [.skipIf (.bitSet q.capDoneMask) 2,
     .delay .poll,
     .back 6,
     .setFst .done] ++ burstReadOps q cap
  handler := releaseHandler
  errResult := .free

/-- FCC_SINGLECAPTURE cap (R236). -/
def execFccSingleCapture (cap : BitVec 24) (s : State) : Host.Outcome State Fault Refusal :=
  runCommand (fccSingleCaptureProg s.params cap) s

/-- FCC_WRITE_REG reg, val (R246). -/
def fccWriteRegProg (reg val : Byte) : Prog where
  main := fccChecks ++ writeRegOps reg (.byte val) ++ [.complete .zero]
  handler := releaseHandler
  errResult := .free

/-- FCC_WRITE_REG reg, val (R246). -/
def execFccWriteReg (reg val : Byte) (s : State) : Host.Outcome State Fault Refusal :=
  runCommand (fccWriteRegProg reg val) s

/-- FCC_READ_REG reg (R248). -/
def fccReadRegProg (reg : Byte) : Prog where
  main := fccChecks ++ readRegOps reg .v ++ [.complete .v]
  handler := releaseHandler
  errResult := .free

/-- FCC_READ_REG reg (R248). -/
def execFccReadReg (reg : Byte) (s : State) : Host.Outcome State Fault Refusal :=
  runCommand (fccReadRegProg reg) s

/-- FCC_SETBIT reg, mask (R254): read, then write the value with the mask bits set. -/
def fccSetBitProg (reg mask : Byte) : Prog where
  main := fccChecks ++ readRegOps reg .v ++ writeRegOps reg (.vOr mask) ++ [.complete .zero]
  handler := releaseHandler
  errResult := .free

/-- FCC_SETBIT reg, mask (R254). -/
def execFccSetBit (reg mask : Byte) (s : State) : Host.Outcome State Fault Refusal :=
  runCommand (fccSetBitProg reg mask) s

/-- FCC_CLRBIT reg, mask (R256): read, then write the value with the mask bits clear. -/
def fccClrBitProg (reg mask : Byte) : Prog where
  main := fccChecks ++ readRegOps reg .v ++ writeRegOps reg (.vAndNot mask) ++ [.complete .zero]
  handler := releaseHandler
  errResult := .free

/-- FCC_CLRBIT reg, mask (R256). -/
def execFccClrBit (reg mask : Byte) (s : State) : Host.Outcome State Fault Refusal :=
  runCommand (fccClrBitProg reg mask) s

/-- FCC_GETBIT reg, mask (R258): the masked value, not a boolean. -/
def fccGetBitProg (reg mask : Byte) : Prog where
  main := fccChecks ++ readRegOps reg .v ++ [.complete (.masked mask)]
  handler := releaseHandler
  errResult := .free

/-- FCC_GETBIT reg, mask (R258). -/
def execFccGetBit (reg mask : Byte) (s : State) : Host.Outcome State Fault Refusal :=
  runCommand (fccGetBitProg reg mask) s

end Sys2Proof.Machine
end

