-- ==== Sys2Proof/Machine/Sequencer.lean ====
section
/-! DEFINITION. The sensor configuration sequencer (41_config_sequencer.md): CFG_APPLY and CFG_READ. RESULT after an
error is the number of entries completed (R188). -/

namespace Sys2Proof.Machine

/-- The first steps of both commands: the bus check, then n = 0 and i = BASE (R182, R186). -/
def listStartOps (base : BitVec 16) : List Op :=
  [.raiseIf (.not (.busUp .rb)) .busUnavailable,
   .startList base]

/-- The head of the loop of both commands: the end of CFGMEM, the read of the entry, the malformed test, the
termination test (R185, R180, R181, R113). -/
def entryHeadOps : List Op :=
  [.raiseIf .listEnd .listOverrun,
   .readEntry,
   .raiseIf .malformed .malformedEntry,
   .skipIf (.not .sentinel) 1,
   .complete .n]

/-- CFG_APPLY base (R182). -/
def cfgApplyProg (base : BitVec 16) : Prog where
  main := listStartOps base ++ entryHeadOps ++
    [.delay .settle,
     .rbWriteEntry,
     .delay .settle,
     .nextEntry,
     .back 9]
  handler := reportHandler
  errResult := .entries

/-- CFG_APPLY base (R182). -/
def execCfgApply (base : BitVec 16) (s : State) : Host.Outcome State Fault Refusal :=
  runCommand (cfgApplyProg base) s

/-- CFG_READ base (R186): the termination test is on the entry as read from CFGMEM. -/
def cfgReadProg (base : BitVec 16) : Prog where
  main := listStartOps base ++ entryHeadOps ++
    [.delay .settle,
     .rbReadEntry,
     .delay .settle,
     .writeBack,
     .nextEntry,
     .back 10]
  handler := reportHandler
  errResult := .entries

/-- CFG_READ base (R186). -/
def execCfgRead (base : BitVec 16) (s : State) : Host.Outcome State Fault Refusal :=
  runCommand (cfgReadProg base) s

end Sys2Proof.Machine
end

