-- ==== Sys2Proof/Machine/Dispatch.lean ====
section
/-! DEFINITION. One arm per command (30_encoding.md rule R103): the command's meaning. -/

namespace Sys2Proof.Machine

def exec (i : Instr) (s : State) : Host.Outcome State Fault Refusal :=
  match i with
  | .nop => Sys2Proof.Machine.execNop s
  | .busOpen mask => Sys2Proof.Machine.execBusOpen mask s
  | .busClose mask => Sys2Proof.Machine.execBusClose mask s
  | .rbWrite addr val => Sys2Proof.Machine.execRbWrite addr val s
  | .rbRead addr => Sys2Proof.Machine.execRbRead addr s
  | .sbXferByte byte => Sys2Proof.Machine.execSbXferByte byte s
  | .sbXferWord word => Sys2Proof.Machine.execSbXferWord word s
  | .sbCs a => Sys2Proof.Machine.execSbCs a s
  | .cfgApply base => Sys2Proof.Machine.execCfgApply base s
  | .cfgRead base => Sys2Proof.Machine.execCfgRead base s
  | .fccSelfTest maxAtt => Sys2Proof.Machine.execFccSelfTest maxAtt s
  | .fccFlush => Sys2Proof.Machine.execFccFlush s
  | .fccTrigger => Sys2Proof.Machine.execFccTrigger s
  | .fccPollDone => Sys2Proof.Machine.execFccPollDone s
  | .fccReadLen => Sys2Proof.Machine.execFccReadLen s
  | .fccBurstRead cap => Sys2Proof.Machine.execFccBurstRead cap s
  | .fccSingleCapture cap => Sys2Proof.Machine.execFccSingleCapture cap s
  | .fccWriteReg reg val => Sys2Proof.Machine.execFccWriteReg reg val s
  | .fccReadReg reg => Sys2Proof.Machine.execFccReadReg reg s
  | .fccSetBit reg mask => Sys2Proof.Machine.execFccSetBit reg mask s
  | .fccClrBit reg mask => Sys2Proof.Machine.execFccClrBit reg mask s
  | .fccGetBit reg mask => Sys2Proof.Machine.execFccGetBit reg mask s
  | .btnArmWait => Sys2Proof.Machine.execBtnArmWait s

end Sys2Proof.Machine
end

