-- ==== Sys2Proof/Machine/Step.lean ====
section
/-! DEFINITION. One step of SCB: the agent whose turn is at the front steps (00_scope.md rule R6, 60_exceptions.md
R311). A turn of the command engine runs the latched command. -/

namespace Sys2Proof.Machine

/-- The command engine's turn, it being at the front: an idle engine makes no step (R342), a word that is no command
ends with IllegalCommand (30_encoding.md R104), else the command runs. -/
def engineTurn (s : State) : Host.Outcome State Fault Refusal :=
  match s.fetch with
  | none => .next s.dropTurn
  | some (_, .ok i) => exec i s
  | some (w, .error _) => .next (s.dropTurn.illegalWord w)

/-- The turn at the front of a state whose turn is decided. -/
def takeTurn (s : State) : Host.Outcome State Fault Refusal :=
  match s.world.turns with
  | [] => .next s
  | .ce more :: _ => if s.world.inReset then .next (s.otherTurn (.ce more)) else engineTurn s
  | t :: _ => .next (s.otherTurn t)

/-- One step: the turn at the front, a free one where State decides none. -/
def step (s : State) : Host.Outcome State Fault Refusal := takeTurn s.ready

/-- `s` with the command word whose low `nbits` bits are those of `w` accepted (60_exceptions.md R307), so that the very
next step is the engine's turn and runs that command. -/
def State.withFetchWord (s : State) (nbits w : Nat) : State :=
  { s.accept (BitVec.ofNat 32 (w % 2 ^ nbits)) with
    world := { s.world with inReset := false, turns := .ce fetchedSteps :: s.world.turns } }

end Sys2Proof.Machine
end

