-- ==== Sys2Proof/Machine/Assembly.lean ====
section
/-! DEFINITION. The command syntax, the host statements, the pseudo-commands and the disassembly of 30_encoding.md Part
C (rules R120 to R123). A statement that polls is written with the polls it makes (log entry 20). -/

namespace Sys2Proof.Machine

/-! ## Commands as text (R120, R123) -/

/-- The mnemonic of a command (R103). -/
def mnemonicOf : Instr → List Char
  | .nop => "NOP".toList
  | .busOpen _ => "BUS_OPEN".toList
  | .busClose _ => "BUS_CLOSE".toList
  | .rbWrite _ _ => "RB_WRITE".toList
  | .rbRead _ => "RB_READ".toList
  | .sbXferByte _ => "SB_XFER_BYTE".toList
  | .sbXferWord _ => "SB_XFER_WORD".toList
  | .sbCs _ => "SB_CS".toList
  | .cfgApply _ => "CFG_APPLY".toList
  | .cfgRead _ => "CFG_READ".toList
  | .fccSelfTest _ => "FCC_SELFTEST".toList
  | .fccFlush => "FCC_FLUSH".toList
  | .fccTrigger => "FCC_TRIGGER".toList
  | .fccPollDone => "FCC_POLLDONE".toList
  | .fccReadLen => "FCC_READLEN".toList
  | .fccBurstRead _ => "FCC_BURSTREAD".toList
  | .fccSingleCapture _ => "FCC_SINGLECAPTURE".toList
  | .fccWriteReg _ _ => "FCC_WRITE_REG".toList
  | .fccReadReg _ => "FCC_READ_REG".toList
  | .fccSetBit _ _ => "FCC_SETBIT".toList
  | .fccClrBit _ _ => "FCC_CLRBIT".toList
  | .fccGetBit _ _ => "FCC_GETBIT".toList
  | .btnArmWait => "BTN_ARM_WAIT".toList

/-- The fields of a command in the order of its syntax (R120). -/
def fieldsOf : Instr → List Nat
  | .nop => []
  | .busOpen mask => [mask.toNat]
  | .busClose mask => [mask.toNat]
  | .rbWrite addr val => [addr.toNat, val.toNat]
  | .rbRead addr => [addr.toNat]
  | .sbXferByte byte => [byte.toNat]
  | .sbXferWord word => [word.toNat]
  | .sbCs a => [a.toNat]
  | .cfgApply base => [base.toNat]
  | .cfgRead base => [base.toNat]
  | .fccSelfTest maxAtt => [maxAtt.toNat]
  | .fccFlush => []
  | .fccTrigger => []
  | .fccPollDone => []
  | .fccReadLen => []
  | .fccBurstRead cap => [cap.toNat]
  | .fccSingleCapture cap => [cap.toNat]
  | .fccWriteReg reg val => [reg.toNat, val.toNat]
  | .fccReadReg reg => [reg.toNat]
  | .fccSetBit reg mask => [reg.toNat, mask.toNat]
  | .fccClrBit reg mask => [reg.toNat, mask.toNat]
  | .fccGetBit reg mask => [reg.toNat, mask.toNat]
  | .btnArmWait => []

/-- A number that fits a field of that width, else the line is rejected (R120). -/
def fit (width n : Nat) : Option (BitVec width) :=
  if n < 2 ^ width then some (BitVec.ofNat width n) else none

/-- A command without fields (R120). -/
def field0 (i : Instr) : List Nat → Option Instr
  | [] => some i
  | _ => none

/-- A command with one field of that width (R120). -/
def field1 (width : Nat) (make : BitVec width → Instr) : List Nat → Option Instr
  | [n] => (fit width n).map make
  | _ => none

/-- A command with two fields of those widths (R120). -/
def field2 (width1 width2 : Nat) (make : BitVec width1 → BitVec width2 → Instr) : List Nat → Option Instr
  | [n1, n2] =>
    match fit width1 n1, fit width2 n2 with
    | some x, some y => some (make x y)
    | _, _ => none
  | _ => none

/-- What each mnemonic makes of its fields (R120, R101). -/
def syntaxTable : List (List Char × (List Nat → Option Instr)) :=
  [("NOP".toList, field0 .nop),
   ("BUS_OPEN".toList, field1 2 .busOpen),
   ("BUS_CLOSE".toList, field1 2 .busClose),
   ("RB_WRITE".toList, field2 16 8 .rbWrite),
   ("RB_READ".toList, field1 16 .rbRead),
   ("SB_XFER_BYTE".toList, field1 8 .sbXferByte),
   ("SB_XFER_WORD".toList, field1 16 .sbXferWord),
   ("SB_CS".toList, field1 1 .sbCs),
   ("CFG_APPLY".toList, field1 16 .cfgApply),
   ("CFG_READ".toList, field1 16 .cfgRead),
   ("FCC_SELFTEST".toList, field1 16 .fccSelfTest),
   ("FCC_FLUSH".toList, field0 .fccFlush),
   ("FCC_TRIGGER".toList, field0 .fccTrigger),
   ("FCC_POLLDONE".toList, field0 .fccPollDone),
   ("FCC_READLEN".toList, field0 .fccReadLen),
   ("FCC_BURSTREAD".toList, field1 24 .fccBurstRead),
   ("FCC_SINGLECAPTURE".toList, field1 24 .fccSingleCapture),
   ("FCC_WRITE_REG".toList, field2 8 8 .fccWriteReg),
   ("FCC_READ_REG".toList, field1 8 .fccReadReg),
   ("FCC_SETBIT".toList, field2 8 8 .fccSetBit),
   ("FCC_CLRBIT".toList, field2 8 8 .fccClrBit),
   ("FCC_GETBIT".toList, field2 8 8 .fccGetBit),
   ("BTN_ARM_WAIT".toList, field0 .btnArmWait)]

/-- The command a mnemonic and its fields make; `none` where the assembler rejects the line (R120). -/
def assembleFields (mnemonic : List Char) (fields : List Nat) : Option Instr :=
  match syntaxTable.find? (fun row => row.1 == mnemonic) with
  | some row => row.2 fields
  | none => none

/-- The value of a digit in the given base. -/
def digitValue (base : Nat) (c : Char) : Option Nat :=
  let n := c.toNat
  let v := if 48 ≤ n ∧ n ≤ 57 then n - 48 else if 97 ≤ n ∧ n ≤ 102 then n - 87 else if 65 ≤ n ∧ n ≤ 70 then n - 55 else base
  if v < base then some v else none

/-- The value of a run of digits after `acc`. -/
def digitsValue (base : Nat) : List Char → Nat → Option Nat
  | [], acc => some acc
  | c :: rest, acc =>
    match digitValue base c with
    | some d => digitsValue base rest (acc * base + d)
    | none => none

/-- A number, decimal or `0x` hexadecimal (R120). -/
def numberOf : List Char → Option Nat
  | [] => none
  | '0' :: 'x' :: c :: rest => digitsValue 16 (c :: rest) 0
  | cs => digitsValue 10 cs 0

/-- Split a text at commas. -/
def splitCommas : List Char → List (List Char)
  | [] => [[]]
  | c :: rest =>
    if c = ',' then [] :: splitCommas rest
    else
      match splitCommas rest with
      | [] => [[c]]
      | piece :: pieces => (c :: piece) :: pieces

/-- Every number of a list of texts, if all are numbers. -/
def numbersOf : List (List Char) → Option (List Nat)
  | [] => some []
  | t :: ts =>
    match numberOf t, numbersOf ts with
    | some n, some ns => some (n :: ns)
    | _, _ => none

/-- The command a line of assembler text stands for: the mnemonic, then its fields separated by commas (R120). -/
def assembleLine (line : List Char) : Option Instr :=
  let start := line.dropWhile (· == ' ')
  let mnemonic := start.takeWhile (· != ' ')
  let rest := (start.drop mnemonic.length).filter (· != ' ')
  match rest with
  | [] => assembleFields mnemonic []
  | _ =>
    match numbersOf (splitCommas rest) with
    | some fields => assembleFields mnemonic fields
    | none => none

/-- A hexadecimal digit. -/
def hexDigit (d : Nat) : Char := Char.ofNat (if d < 10 then 48 + d else 87 + d)

/-- A number as `count` hexadecimal digits. -/
def hexDigits : Nat → Nat → List Char
  | 0, _ => []
  | count + 1, n => hexDigits count (n / 16) ++ [hexDigit (n % 16)]

/-- How many hexadecimal digits a number of at most 24 bits needs, at least one. -/
def hexWidth (n : Nat) : Nat :=
  if n < 16 then 1 else if n < 256 then 2 else if n < 4096 then 3 else if n < 65536 then 4
  else if n < 1048576 then 5 else 6

/-- A field as the disassembler prints it (R123). -/
def hexField (n : Nat) : List Char := '0' :: 'x' :: hexDigits (hexWidth n) n

/-- Fields separated by commas. -/
def commaFields : List Nat → List Char
  | [] => []
  | [n] => hexField n
  | n :: m :: rest => hexField n ++ [',', ' '] ++ commaFields (m :: rest)

/-- A command in the syntax of rule R120 with hexadecimal fields (R123). -/
def printInstr (i : Instr) : List Char :=
  match fieldsOf i with
  | [] => mnemonicOf i
  | fields => mnemonicOf i ++ [' '] ++ commaFields fields

/-- The disassembly of a word (R123): a legal word in the syntax of R120, an illegal one (R104, under the address width
and the capacity in force) as `.word 0x........`. -/
def disassemble (aw : Bool) (bufBytes : Nat) (w : Word) : List Char :=
  match decode w with
  | .ok i => if i.wellFormed aw bufBytes then printInstr i else ".word 0x".toList ++ hexDigits 8 w.toNat
  | .error _ => ".word 0x".toList ++ hexDigits 8 w.toNat

/-! ## Host statements (R121) -/

/-- The word of a CFGMEM entry with bits 31:24 zero (R121, R110). -/
def entryWord (addr : RegAddr) (val : Byte) : Word := (zext32 val <<< 16) ||| zext32 addr

/-- The host address of CFGMEM word i (R71, R121). -/
def cfgmemAddress (i : Nat) : HAddr := BitVec.ofNat 24 (0x10000 + i)

/-- `ENTRY i, addr, val` (R121). -/
def entryTurns (i : Nat) (addr : RegAddr) (val : Byte) : List Turn :=
  [.hostWrite (cfgmemAddress i) (entryWord addr val)]

/-- `SENT8 i` (R121). -/
def sent8Turns (i : Nat) : List Turn := entryTurns i 0x00FF#16 0xFF#8

/-- `SENT16 i` (R121). -/
def sent16Turns (i : Nat) : List Turn := entryTurns i 0xFFFF#16 0xFF#8

/-- `CMD <command>` (R121). -/
def cmdTurns (i : Instr) : List Turn := [.hostWrite 0x000000#24 (encode i)]

/-- `WAITIDLE` (R121), the engine taking the given slices of further steps between the polls of STATUS. -/
def waitIdleTurns : List Nat → List Turn
  | [] => [.hostRead 0x000001#24]
  | more :: rest => .hostRead 0x000001#24 :: .ce more :: waitIdleTurns rest

/-- `DO <command>` (R121), the engine taking the given slices of further steps between the polls of STATUS. -/
def doTurns (i : Instr) (slices : List Nat) : List Turn :=
  cmdTurns i ++ waitIdleTurns slices ++ [.hostRead 0x000001#24, .hostRead 0x000002#24]

/-! ## Pseudo-commands (R122) -/

/-- `FCC_CAPTURE cap` when the done bit is found set after `misses` polls that find it clear (R122). -/
def fccCaptureCommands (cap : BitVec 24) (misses : Nat) : List Instr :=
  [.fccFlush, .fccTrigger] ++ List.replicate (misses + 1) .fccPollDone ++ [.fccBurstRead cap]

/-- `SB_REGWRITE reg, val` (R122). -/
def sbRegWriteCommands (reg val : Byte) : List Instr :=
  [.sbCs 1#1, .sbXferByte (reg ||| 0x80#8), .sbXferByte val, .sbCs 0#1]

/-- `SB_REGREAD reg` (R122); the result of the third command is the value. -/
def sbRegReadCommands (reg : Byte) : List Instr :=
  [.sbCs 1#1, .sbXferByte (reg &&& 0x7F#8), .sbXferByte 0x00#8, .sbCs 0#1]

end Sys2Proof.Machine
end

