-- ==== Sys2Proof/Safety.lean ====
section
/-! DEFINITION. The terms the statements use: a command that is about to start and the states its rule ends it in, the
environment's answers in order, the bus trace, and the invariant of the machine. -/

namespace Sys2Proof.Machine

/-- The pseudocode of a command. -/
def progOf (q : Params) : Instr → Prog
  | .nop => nopProg
  | .busOpen mask => busOpenProg mask
  | .busClose mask => busCloseProg mask
  | .rbWrite addr val => rbWriteProg addr val
  | .rbRead addr => rbReadProg addr
  | .sbXferByte byte => sbXferByteProg byte
  | .sbXferWord word => sbXferWordProg word
  | .sbCs a => sbCsProg a
  | .cfgApply base => cfgApplyProg base
  | .cfgRead base => cfgReadProg base
  | .fccSelfTest maxAtt => fccSelfTestProg q maxAtt
  | .fccFlush => fccFlushProg q
  | .fccTrigger => fccTriggerProg q
  | .fccPollDone => fccPollDoneProg q
  | .fccReadLen => fccReadLenProg q
  | .fccBurstRead cap => fccBurstReadProg q cap
  | .fccSingleCapture cap => fccSingleCaptureProg q cap
  | .fccWriteReg reg val => fccWriteRegProg reg val
  | .fccReadReg reg => fccReadRegProg reg
  | .fccSetBit reg mask => fccSetBitProg reg mask
  | .fccClrBit reg mask => fccClrBitProg reg mask
  | .fccGetBit reg mask => fccGetBitProg reg mask
  | .btnArmWait => btnArmWaitProg

/-- The commands of the FIFO capture controller (42_fifo_capture.md R210). -/
def isFcc : Instr → Bool
  | .nop => false
  | .busOpen _ => false
  | .busClose _ => false
  | .rbWrite _ _ => false
  | .rbRead _ => false
  | .sbXferByte _ => false
  | .sbXferWord _ => false
  | .sbCs _ => false
  | .cfgApply _ => false
  | .cfgRead _ => false
  | .fccSelfTest _ => true
  | .fccFlush => true
  | .fccTrigger => true
  | .fccPollDone => true
  | .fccReadLen => true
  | .fccBurstRead _ => true
  | .fccSingleCapture _ => true
  | .fccWriteReg _ _ => true
  | .fccReadReg _ => true
  | .fccSetBit _ _ => true
  | .fccClrBit _ _ => true
  | .fccGetBit _ _ => true
  | .btnArmWait => false

/-- The command was accepted and has made no step yet (60_exceptions.md R307), and the turn at the front gives the
engine at least `steps` atomic steps. -/
abbrev Starts (i : Instr) (steps : Nat) (s : State) : Prop :=
  s.ce = some (Flight.start (encode i)) ∧ steps ≤ s.world.moreSteps + 1

/-- The world after the environment has given its next `count` answers. -/
def World.skipAnswers : Nat → World → World
  | 0, x => x
  | count + 1, x => World.skipAnswers count x.drawAnswer.2

/-- The environment's answer after `count` others (R14). -/
def World.answerAt (x : World) (count : Nat) : Answer := (World.skipAnswers count x).drawAnswer.1

/-- An answer that is a success. -/
def Answer.isOk : Answer → Bool
  | .ok _ => true
  | .unavailable => false
  | .failure => false

/-- The environment's next `count` answers are all successes. -/
abbrev World.answersOk (x : World) (count : Nat) : Prop :=
  ∀ j < count, (x.answerAt j).isOk = true

/-- The byte of the environment's answer after `count` others. -/
def World.byteAt (x : World) (count : Nat) : Byte := (x.answerAt count).byte

/-- The state in which a command has completed (60_exceptions.md R308): its turn and `taken` answers are used up, its
events recorded, ERR, RESULT and CDONE written, nothing in flight; everything else is as before. -/
def State.completed (s : State) (taken : Nat) (events : List Event) (err : Option Err) (result : Word) : State :=
  { s with
    status := { s.status with cdone := true, err := err }
    result := result
    ce := none
    history := s.history ++ events
    world := World.skipAnswers taken s.world.dropTurn }

/-- The state in which a command has completed with an error whose rule leaves RESULT any value (R35). -/
def State.completedFree (s : State) (taken : Nat) (events : List Event) (e : Err) : State :=
  { s.completed taken events (some e) (World.skipAnswers taken s.world.dropTurn).drawWord.1 with
    world := (World.skipAnswers taken s.world.dropTurn).drawWord.2 }

/-- A transfer event whose reply is a byte. -/
def sent (tx reply : Byte) : Event := .sbXfer tx (.byte reply)

/-- The events of an FCC register write frame with the bytes received (R114). -/
def writeFrame (reg val r1 r2 : Byte) : List Event :=
  [.sbCs true, sent (fccWriteAddress reg) r1, sent val r2, .sbCs false]

/-- The events of an FCC register read frame with the bytes received (R115). -/
def readFrame (reg r1 r2 : Byte) : List Event :=
  [.sbCs true, sent (fccReadAddress reg) r1, sent Config.sbDummy r2, .sbCs false]

/-- The events of a read frame whose two transfers take the answers from number `k` on. -/
def readFrameAt (x : World) (reg : Byte) (k : Nat) : List Event :=
  readFrame reg (x.byteAt k) (x.byteAt (k + 1))

/-- The events of a write frame whose two transfers take the answers from number `k` on. -/
def writeFrameAt (x : World) (reg val : Byte) (k : Nat) : List Event :=
  writeFrame reg val (x.byteAt k) (x.byteAt (k + 1))

/-- The events of the three length reads, their answers from number `k` on (R211). -/
def lengthFramesAt (x : World) (q : Params) (k : Nat) : List Event :=
  readFrameAt x q.regSize1 k ++ readFrameAt x q.regSize2 (k + 2) ++ readFrameAt x q.regSize3 (k + 4)

/-- The length the three reads give, their answers from number `k` on (R117, R211). -/
def lengthAt (x : World) (k : Nat) : BitVec 23 :=
  fifoLength (x.byteAt (k + 1)) (x.byteAt (k + 3)) (x.byteAt (k + 5))

/-- The events of `count` data transfers of a burst from byte `k` on, their answers from number `d` on (R118). -/
def burstData (x : World) (d : Nat) : Nat → Nat → List Event
  | _, 0 => []
  | k, count + 1 =>
    [sent Config.sbDummy (x.byteAt (d + k)), .bufWrite k (x.byteAt (d + k))] ++ burstData x d (k + 1) count

/-- The events of a burst frame of `len` bytes, its answers from number `d` on (R118). -/
def burstFrameAt (x : World) (q : Params) (d len : Nat) : List Event :=
  [.sbCs true, sent q.burstCmd (x.byteAt d)] ++ burstData x (d + 1) 0 len ++ [.sbCs false]

/-- BUF after `count` bytes are stored from byte `k` on, taken from the answers from number `d + k` on. -/
def storeBurst (x : World) (d : Nat) (m : Memory) : Nat → Nat → Memory
  | _, 0 => m
  | k, count + 1 => storeBurst x d (Memory.set m k (x.byteAt (d + k))) (k + 1) count

/-- Some answer of the environment that is not a success is an IOFailure of a serial-bus transfer (92 D16). -/
def failedTransfer (tx : Byte) : Event := .sbXfer tx (.failed .ioFailure)

/-- The byte of the first transfer of an FCC command's first frame (42_fifo_capture.md); 0 for the other commands. -/
def firstTransfer (q : Params) : Instr → Byte
  | .nop => 0#8
  | .busOpen _ => 0#8
  | .busClose _ => 0#8
  | .rbWrite _ _ => 0#8
  | .rbRead _ => 0#8
  | .sbXferByte _ => 0#8
  | .sbXferWord _ => 0#8
  | .sbCs _ => 0#8
  | .cfgApply _ => 0#8
  | .cfgRead _ => 0#8
  | .fccSelfTest _ => fccWriteAddress q.regTest
  | .fccFlush => fccWriteAddress q.regFifo
  | .fccTrigger => fccWriteAddress q.regFifo
  | .fccPollDone => fccReadAddress q.regTrig
  | .fccReadLen => fccReadAddress q.regSize1
  | .fccBurstRead _ => fccReadAddress q.regSize1
  | .fccSingleCapture _ => fccWriteAddress q.regFifo
  | .fccWriteReg reg _ => fccWriteAddress reg
  | .fccReadReg reg => fccReadAddress reg
  | .fccSetBit reg _ => fccReadAddress reg
  | .fccClrBit reg _ => fccReadAddress reg
  | .fccGetBit reg _ => fccReadAddress reg
  | .btnArmWait => 0#8

/-- The FIFO-state precondition of a command's own rule (42_fifo_capture.md R210 (c), R214). -/
def fifoStateAllows (i : Instr) (x : Fst) : Bool :=
  match i with
  | .nop => true
  | .busOpen _ => true
  | .busClose _ => true
  | .rbWrite _ _ => true
  | .rbRead _ => true
  | .sbXferByte _ => true
  | .sbXferWord _ => true
  | .sbCs _ => true
  | .cfgApply _ => true
  | .cfgRead _ => true
  | .fccSelfTest _ => true
  | .fccFlush => x != .capturing
  | .fccTrigger => x == .idle
  | .fccPollDone => true
  | .fccReadLen => true
  | .fccBurstRead _ => x == .done
  | .fccSingleCapture _ => x != .capturing
  | .fccWriteReg _ _ => true
  | .fccReadReg _ => true
  | .fccSetBit _ _ => true
  | .fccClrBit _ _ => true
  | .fccGetBit _ _ => true
  | .btnArmWait => true

/-- The entries of a list from word `base` on: `count` well-formed entries that are not the sentinel. -/
abbrev ListEntries (s : State) (base count : Nat) : Prop :=
  ∀ j < count, base + j < s.params.cfgWords ∧ entryMalformed s.cfg.aw (s.cfgWordAt (base + j)) = false ∧
    isSentinel s.cfg.aw (s.cfgWordAt (base + j)) = false

/-- Word `i` of CFGMEM is a sentinel (R113, R181). -/
abbrev SentinelAt (s : State) (i : Nat) : Prop :=
  i < s.params.cfgWords ∧ entryMalformed s.cfg.aw (s.cfgWordAt i) = false ∧ isSentinel s.cfg.aw (s.cfgWordAt i) = true

/-- The events of applying `count` entries from word `base` on (R182, R184). -/
def applyEvents (s : State) (base count : Nat) : List Event :=
  (List.range count).flatMap fun j =>
    [.cfgRead (base + j) (s.cfgWordAt (base + j)),
     .delay .settle,
     .rbWrite (rbWriteBytes s.cfg.aw (entryAddr (s.cfgWordAt (base + j))) (entryVal (s.cfgWordAt (base + j)))) none,
     .delay .settle]

/-- Entry number `j` of a list with the value that was read back (R186). -/
def readBackEntry (s : State) (base j : Nat) : Word :=
  entryWithVal (s.cfgWordAt (base + j)) (s.world.byteAt j)

/-- The events of reading back `count` entries from word `base` on (R186, R184). -/
def readBackEvents (s : State) (base count : Nat) : List Event :=
  (List.range count).flatMap fun j =>
    [.cfgRead (base + j) (s.cfgWordAt (base + j)),
     .delay .settle,
     .rbRead (rbReadBytes s.cfg.aw (entryAddr (s.cfgWordAt (base + j)))) (.byte (s.world.byteAt j)),
     .delay .settle,
     .cfgWrite (base + j) (readBackEntry s base j)]

/-- CFGMEM after `count` entries from word `base` on were read back (R186). -/
def readBackMemory (s : State) (base : Nat) : Nat → Memory
  | 0 => s.cfgmem
  | count + 1 => Memory.setWord (readBackMemory s base count) (base + count) (readBackEntry s base count)

/-- Both transfers of the frame whose first takes answer number `d` succeed. -/
def frameOk (x : World) (d : Nat) : Bool := (x.answerAt d).isOk && (x.answerAt (d + 1)).isOk

/-- How many answers a register frame takes: a failed first transfer is its last (R211). -/
def frameTaken (x : World) (d : Nat) : Nat := if (x.answerAt d).isOk then 2 else 1

/-- The events of an FCC register frame that sends `addr` and `data`, its answers from number `d` on: after a failed
transfer chip select is released and nothing more is sent (R211). -/
def frameTried (x : World) (addr data : Byte) (d : Nat) : List Event :=
  if (x.answerAt d).isOk then
    if (x.answerAt (d + 1)).isOk then
      [.sbCs true, sent addr (x.byteAt d), sent data (x.byteAt (d + 1)), .sbCs false]
    else [.sbCs true, sent addr (x.byteAt d), failedTransfer data, .sbCs false]
  else [.sbCs true, failedTransfer addr, .sbCs false]

/-- The events of a write frame, failed or not (R211, R114). -/
def writeFrameTried (x : World) (reg val : Byte) (d : Nat) : List Event := frameTried x (fccWriteAddress reg) val d

/-- The events of a read frame, failed or not (R211, R115). -/
def readFrameTried (x : World) (reg : Byte) (d : Nat) : List Event :=
  frameTried x (fccReadAddress reg) Config.sbDummy d

/-- The three length reads succeed, their answers from number `d` on. -/
def lengthOk (x : World) (d : Nat) : Bool := frameOk x d && frameOk x (d + 2) && frameOk x (d + 4)

/-- How many answers the length reads take: after a failed one the later ones are not made (R224). -/
def lengthTaken (x : World) (d : Nat) : Nat :=
  if frameOk x d then
    if frameOk x (d + 2) then 4 + frameTaken x (d + 4) else 2 + frameTaken x (d + 2)
  else frameTaken x d

/-- The events of the length reads, failed or not (R211, R224). -/
def lengthTried (x : World) (q : Params) (d : Nat) : List Event :=
  readFrameTried x q.regSize1 d ++
    if frameOk x d then
      readFrameTried x q.regSize2 (d + 2) ++ if frameOk x (d + 2) then readFrameTried x q.regSize3 (d + 4) else []
    else []

/-- The events of a burst frame whose transfer number `m` fails, the control byte being number 0 (R118, R211). -/
def burstFrameCut (x : World) (q : Params) (d : Nat) : Nat → List Event
  | 0 => [.sbCs true, failedTransfer q.burstCmd, .sbCs false]
  | k + 1 =>
    [.sbCs true, sent q.burstCmd (x.byteAt d)] ++ burstData x (d + 1) 0 k ++
      [failedTransfer Config.sbDummy, .sbCs false]

/-- How many answers an attempt of a self-test takes, the first of them number `d`: a failed write makes no read
(R212). -/
def attemptTaken (x : World) (d : Nat) : Nat := if frameOk x d then 2 + frameTaken x (d + 2) else frameTaken x d

/-- The events of an attempt of a self-test, its answers from number `d` on (R212). -/
def attemptEvents (x : World) (q : Params) (d : Nat) : List Event :=
  writeFrameTried x q.regTest q.testPattern d ++ if frameOk x d then readFrameTried x q.regTest (d + 2) else []

/-- The outcome of an attempt of a self-test: a failed transfer, a byte that is not the pattern, or none (R212). -/
def attemptOutcome (x : World) (q : Params) (d : Nat) : Option Err :=
  if frameOk x d && frameOk x (d + 2) then
    if x.byteAt (d + 3) = q.testPattern then none else some .protocolMismatch
  else some .ioFailure

/-- The number of the first answer of attempt number `j`. -/
def attemptStart (x : World) : Nat → Nat
  | 0 => 0
  | j + 1 => attemptStart x j + attemptTaken x (attemptStart x j)

/-- The events of `count` failed attempts, each followed by the retry delay (R212). -/
def retriedEvents (x : World) (q : Params) (count : Nat) : List Event :=
  (List.range count).flatMap fun j => attemptEvents x q (attemptStart x j) ++ [.delay .retry]

/-- The attempt counter after `count` attempts, saturating (R212). -/
def attemptCount (count : Nat) : Word := BitVec.ofNat 32 (min count 0xFFFFFFFF)

/-- The events of `misses` polls that find the done bit clear, their answers from number `d` on, each followed by the
poll delay (R236). -/
def missedPolls (s : State) (d misses : Nat) : List Event :=
  (List.range misses).flatMap fun j => readFrameAt s.world s.params.regTrig (d + 2 * j) ++ [.delay .poll]

/-- The events of FCC_SINGLECAPTURE up to the poll that is not one of the first `misses`, which find the done bit clear
(R236). -/
def pollEvents (s : State) (misses : Nat) : List Event :=
  writeFrameAt s.world s.params.regFifo s.params.fifoClearMask 0 ++
    writeFrameAt s.world s.params.regFifo s.params.fifoStartMask 2 ++ missedPolls s 4 misses

/-- Every piece of state that has a reset value has it (70_reset_and_hazards.md R341); CFGMEM and BUF have no cell that
was written since. -/
structure State.hasResetValues (s : State) : Prop where
  /-- No command runs, no latched word, no locals. -/
  ce : s.ce = none
  /-- STATUS. -/
  status : statusWord s = 0#32
  /-- FST. -/
  fst : s.fst = .idle
  /-- BST, DLEVEL, CAND, CNT, PEND, PLEVEL. -/
  button : s.button = { bst := .armed, dlevel := none, cand := none, cnt := 0#4, pend := false, plevel := false }
  /-- RBUP, SBUP, CS. -/
  bus : s.bus = { rbUp := false, sbUp := false, cs := false }
  /-- RESULT. -/
  result : s.result = 0#32
  /-- CFG. -/
  cfg : cfgWord s.cfg = 0x00000008#32
  /-- BUFLEN. -/
  bufLen : s.bufLen = 0#24
  /-- CMD and the reserved CSRs read 0, CAPS0 and CAPS1 their constants. -/
  csrs : (∀ n, n = 0 ∨ 7 ≤ n → csrRead s n = 0#32) ∧ csrRead s 5 = BitVec.ofNat 32 s.params.bufBytes ∧
    csrRead s 6 = BitVec.ofNat 32 s.params.cfgWords
  /-- irq. -/
  irq : s.irq = false
  /-- CFGMEM and BUF: any value. -/
  memories : s.cfgmem = [] ∧ s.buf = []

/-- A primitive that a bus or the clock sees: a memory access or a host access is none. -/
def Event.onBus : Event → Bool
  | .rbWrite _ _ => true
  | .rbRead _ _ => true
  | .sbXfer _ _ => true
  | .sbCs _ => true
  | .busOpen _ _ => true
  | .busClose _ => true
  | .delay _ => true
  | .cfgRead _ _ => false
  | .cfgWrite _ _ => false
  | .bufWrite _ _ => false
  | .hostRead _ _ _ => false
  | .hostWrite _ _ _ => false

/-- The bus trace of a list of events (R52, R82). -/
def busTrace (events : List Event) : List Event := events.filter Event.onBus

/-! ## The invariant -/

/-- The bus that an operation checks to be up (R141, R182, R210 (a)). -/
def Op.checksBus : Op → Option Bus
  | .raiseIf (.not (.busUp b)) _ => some b
  | _ => none

/-- The capacity that an operation checks against BUF_BYTES (R104 (d)). -/
def Op.checksCapacity : Op → Option (BitVec 24)
  | .raiseIf (.not (.capacityFits cap)) _ => some cap
  | _ => none

/-- The capacity that an operation checks the length against (R228). -/
def Op.checksLength : Op → Option (BitVec 24)
  | .raiseIf (.lengthOver cap) _ => some cap
  | _ => none

/-- The level that an operation drives chip select to. -/
def Op.drivesCs : Op → Option Bool
  | .cs a => some a
  | _ => none

/-- The check (b) of the FCC commands stands before a position (R210). -/
def Prog.csChecked (p : Prog) (pos : Nat) : Bool := (p.code.take pos).contains (.raiseIf .csAsserted .illegalState)

/-- Whether a position of the main operations lies inside a frame: the last drive of chip select before it asserts it
(R211, R118). -/
def Prog.selectedAt (p : Prog) (pos : Nat) : Bool := ((p.main.take pos).filterMap Op.drivesCs).getLast? == some true

/-- A position at which a list entry is being worked on: behind the end test and not behind the step to the next entry
(R182, R186). -/
def Prog.inEntry (p : Prog) (pos : Nat) : Bool :=
  (p.main.take pos).contains (.raiseIf .listEnd .listOverrun) && (p.main.drop pos).contains .nextEntry

/-- A position from which the next byte of a burst is received and stored (R228). -/
def Prog.inByte (p : Prog) (pos : Nat) : Bool :=
  p.code[pos]? == some .storeByte || p.code[pos + 1]? == some .storeByte

/-- What the operations that a command has passed tell about the state it is in. -/
structure Flight.Sound (p : Prog) (f : Flight) (s : State) : Prop where
  /-- The position lies in the command's pseudocode. -/
  inside : f.pos < p.code.length
  /-- A bus whose check is passed is up. -/
  busChecked : ∀ op ∈ p.code.take f.pos, ∀ b ∈ op.checksBus, s.bus.up b = true
  /-- A capacity whose check is passed fits. -/
  capacityChecked : ∀ op ∈ p.code.take f.pos, ∀ cap ∈ op.checksCapacity, capacityFits s.params.bufBytes cap = true
  /-- A length whose check is passed is at most the capacity. -/
  lengthChecked : f.pos < p.main.length → ∀ op ∈ p.code.take f.pos, ∀ cap ∈ op.checksLength, f.len.toNat ≤ cap.toNat
  /-- Where a conditional release of chip select is behind, chip select is not asserted. -/
  released : .csRelease ∈ p.code.take f.pos → s.bus.cs = false
  /-- Behind the check of chip select, it is asserted exactly inside the frames; in front of the release it may be
  either. -/
  csFramed : f.pos < p.main.length → p.csChecked f.pos = true → s.bus.cs = p.selectedAt f.pos
  /-- While a byte of a burst is received and stored, its number is below the length. -/
  byteCounted : p.inByte f.pos = true → f.k < f.len.toNat
  /-- While an entry is worked on, its index lies in CFGMEM. -/
  entryInside : p.inEntry f.pos = true → f.i < s.params.cfgWords
  /-- The handler has an error to raise. -/
  errorHeld : p.main.length ≤ f.pos → f.outcome ≠ none

/-- The frame whose success a change of FST waits for (R213). -/
inductive FstFrame where
  /-- A write frame. -/
  | write (reg val : Byte)
  /-- A read frame that has to show a bit of the mask. -/
  | read (reg mask : Byte)
  deriving DecidableEq, Repr

/-- The events of the frame when both transfers succeed. -/
def FstFrame.events (r1 r2 : Byte) : FstFrame → List Event
  | .write reg val => writeFrame reg val r1 r2
  | .read reg _ => readFrame reg r1 r2

/-- The byte received second is the one the command keeps, where it keeps one. -/
def FstFrame.keeps (r2 v : Byte) : FstFrame → Prop
  | .write _ _ => True
  | .read _ _ => v = r2

/-- The byte kept calls for the change. -/
def FstFrame.shows (v : Byte) : FstFrame → Prop
  | .write _ _ => True
  | .read _ mask => v &&& mask ≠ 0#8

/-- A change of FST in a command's pseudocode (R214). -/
structure FstChange where
  /-- The position of the operation behind which the states it comes from are known. -/
  guard : Nat
  /-- The position where its frame starts. -/
  start : Nat
  /-- The position behind which the byte that calls for it is known. -/
  tested : Nat
  /-- The position of the change itself. -/
  change : Nat
  /-- The states it comes from. -/
  sources : List Fst
  /-- The state it goes to. -/
  target : Fst
  /-- The frame it waits for. -/
  frame : FstFrame
  deriving DecidableEq, Repr

/-- The changes of FST of a command (R214). -/
def fstChanges (q : Params) : Instr → List FstChange
  | .nop => []
  | .busOpen _ => []
  | .busClose _ => []
  | .rbWrite _ _ => []
  | .rbRead _ => []
  | .sbXferByte _ => []
  | .sbXferWord _ => []
  | .sbCs _ => []
  | .cfgApply _ => []
  | .cfgRead _ => []
  | .fccSelfTest _ => []
  | .fccFlush => [⟨2, 3, 6, 7, [.idle, .done], .idle, .write q.regFifo q.fifoClearMask⟩]
  | .fccTrigger => [⟨2, 3, 6, 7, [.idle], .capturing, .write q.regFifo q.fifoStartMask⟩]
  | .fccPollDone => [⟨7, 2, 6, 8, [.capturing], .done, .read q.regTrig q.capDoneMask⟩]
  | .fccReadLen => []
  | .fccBurstRead _ => []
  | .fccSingleCapture _ =>
    [⟨3, 4, 7, 8, [.idle, .done], .idle, .write q.regFifo q.fifoClearMask⟩,
     ⟨8, 9, 12, 13, [.idle], .capturing, .write q.regFifo q.fifoStartMask⟩,
     ⟨13, 14, 20, 21, [.capturing], .done, .read q.regTrig q.capDoneMask⟩]
  | .fccWriteReg _ _ => []
  | .fccReadReg _ => []
  | .fccSetBit _ _ => []
  | .fccClrBit _ _ => []
  | .fccGetBit _ _ => []
  | .btnArmWait => []

/-- The serial-bus events since chip select was last asserted, after one more event. -/
def Event.extendFrame (frame : List Event) : Event → List Event
  | .sbCs true => [.sbCs true]
  | .sbCs false => frame ++ [.sbCs false]
  | .sbXfer tx reply => frame ++ [.sbXfer tx reply]
  | .rbWrite _ _ => frame
  | .rbRead _ _ => frame
  | .busOpen _ _ => frame
  | .busClose _ => frame
  | .delay _ => frame
  | .cfgRead _ _ => frame
  | .cfgWrite _ _ => frame
  | .bufWrite _ _ => frame
  | .hostRead _ _ _ => frame
  | .hostWrite _ _ _ => frame

/-- The serial-bus events of a history since chip select was last asserted (R52). -/
def lastFrame (history : List Event) : List Event := history.foldl Event.extendFrame []

/-- On the way to a change of FST: the state it comes from, the part of its frame that is recorded, each transfer
answered, and behind its test the byte that calls for it (R213, R214). -/
structure FstChange.Holds (c : FstChange) (f : Flight) (s : State) : Prop where
  /-- The state it comes from. -/
  source : c.guard < f.pos → f.pos ≤ c.change → s.fst ∈ c.sources
  /-- The part of the frame that is recorded. -/
  recorded : c.start < f.pos → f.pos ≤ c.change → ∃ r1 r2,
    lastFrame s.history = (c.frame.events r1 r2).take (f.pos - c.start) ∧ (c.start + 3 ≤ f.pos → c.frame.keeps r2 f.v)
  /-- The byte that calls for it. -/
  shown : c.tested < f.pos → f.pos ≤ c.change → c.frame.shows f.v

/-- The invariant of the machine. -/
structure State.Inv (s : State) : Prop where
  /-- CFGMEM is in canonical form. -/
  cfgmemWf : Memory.wf s.cfgmem
  /-- BUF is in canonical form. -/
  bufWf : Memory.wf s.buf
  /-- CFGMEM has CFG_WORDS words only (R47). -/
  cfgmemBound : ∀ c ∈ s.cfgmem, c.1 < 4 * s.params.cfgWords
  /-- BUF has BUF_BYTES bytes only (R48, R230). -/
  bufBound : ∀ c ∈ s.buf, c.1 < s.params.bufBytes
  /-- BUFLEN never exceeds the capacity (R230, R231). -/
  bufLenBound : s.bufLen.toNat ≤ s.params.bufBytes
  /-- While a command runs, ERR and CDONE are 0 (R33, R307). -/
  busyClean : s.busy = true → s.status.err = none ∧ s.status.cdone = false
  /-- Chip select is asserted only while the serial bus is up (R44, R154, R210). -/
  csNeedsBus : s.bus.cs = true → s.bus.sbUp = true
  /-- A pending edge has left the button Pressed (R273). -/
  pendPressed : s.button.pend = true → s.button.bst = .pressed
  /-- A run of equal samples has a level and the other way round (R46). -/
  runLevel : s.button.cnt = 0#4 ↔ s.button.cand = none
  /-- An accepted level came from a run (R271). -/
  levelFromRun : s.button.dlevel ≠ none → s.button.cand ≠ none
  /-- A command in flight stands where its checks allow (R210, R211, R302). -/
  flightSound : ∀ f i, s.ce = some f → decode f.word = .ok i → f.Sound (progOf s.params i) s
  /-- A change of FST waits for its frame (R213). -/
  fstJustified : ∀ f i, s.ce = some f → decode f.word = .ok i → ∀ c ∈ fstChanges s.params i, c.Holds f s

end Sys2Proof.Machine
end

