-- ==== Sys2Proof/Certificates/Slice0/Obligations.lean ====
section
/-! DEFINITION. The statements about SCB for the provers. Each says in its docstring which rule of spec/ it formalises.
A command's statement is about the command as it starts (60_exceptions.md R307) in a turn of the engine that is long
enough; the environment's answers are numbered in the order in which the command takes them. Four things in the
statements are the model's own choices: a turn and how many atomic steps it gives (log entries 1 and 4), that an answer of
the environment that a primitive cannot fail with counts as its one failure (log entry 16), that the accesses of rule R11
stand in the history beside the bus events (log entry 11), and the world outside (log entries 2 and 21). -/

open Sys2Proof Sys2Proof.Machine

/-! ## Encoding -/

/-- R100 to R103: decoding the word of a command gives the command back, with every operand. -/
def Obligations.DecodeOfEncode : Prop :=
  ∀ i : Instr, decode (encode i) = .ok i

/-- R100 to R105: a word that decodes to a command is that command's word, bit for bit. -/
def Obligations.EncodeOfDecode : Prop :=
  ∀ (w : Word) (i : Instr), decode w = .ok i → encode i = w

/-- R104 (a), (b): the decoder rejects a word for its opcode exactly when no command has that opcode, and for a reserved
bit exactly when a command has the opcode and a reserved bit of its format is 1. -/
def Obligations.DecodeRejectsExactly : Prop :=
  ∀ w : Word,
    (decode w = .error .unknownOpcode ↔ ∀ i : Instr, opcodeOf i ≠ opcodeOfWord w) ∧
    (decode w = .error .reservedBitSet ↔
      ∃ i : Instr, opcodeOf i = opcodeOfWord w ∧ i.format.reservedClear (operandOfWord w) = false)

/-- The words of the examples of R120. -/
def Obligations.ExampleWordsDecode : Prop :=
  decode 0x31000000#32 = .ok .fccFlush ∧
  decode 0x01000003#32 = .ok (.busOpen 3#2) ∧
  decode 0x10301280#32 = .ok (.rbWrite 0x3012#16 0x80#8) ∧
  decode 0x11000A00#32 = .ok (.rbRead 0x0A#16) ∧
  decode 0x1800003C#32 = .ok (.sbXferByte 0x3C#8) ∧
  decode 0x19008155#32 = .ok (.sbXferWord 0x8155#16) ∧
  decode 0x1A000001#32 = .ok (.sbCs 1#1) ∧
  decode 0x20000000#32 = .ok (.cfgApply 0#16) ∧
  decode 0x30000000#32 = .ok (.fccSelfTest 0#16) ∧
  decode 0x3500000A#32 = .ok (.fccBurstRead 10#24) ∧
  decode 0x3A000310#32 = .ok (.fccSetBit 0x03#8 0x10#8) ∧
  decode 0x39004100#32 = .ok (.fccReadReg 0x41#8)

/-! ## The step -/

/-- R45, R307: on a turn of the engine outside reset, the step is the latched command's meaning. That a step is a turn is
the model's choice (log entry 1). -/
def Obligations.StepRunsDecodedCommand : Prop :=
  ∀ (s : State) (f : Flight) (i : Instr) (more : Nat) (rest : List Turn),
    s.world.inReset = false → s.world.turns = .ce more :: rest → s.ce = some f → decode f.word = .ok i →
    step s = exec i s

/-- R104 (a), (b), R188: an illegal word ends with IllegalCommand, no event and nothing touched but the completion
fields; RESULT is 0 where the opcode is that of CFG_APPLY or CFG_READ (R188 read as in log entry 12). -/
def Obligations.IllegalWordEndsWithIllegalCommand : Prop :=
  ∀ (s : State) (f : Flight) (e : DecodeError) (more : Nat) (rest : List Turn),
    s.world.inReset = false → s.world.turns = .ce more :: rest → s.ce = some f → decode f.word = .error e →
    ∃ r k,
      step s = .next { s.completed 0 [] (some .illegalCommand) r with world := { s.world.dropTurn with tick := k } } ∧
      (opcodeOfWord f.word = 0x20#8 ∨ opcodeOfWord f.word = 0x21#8 → r = 0#32)

/-- R6, R270, R70, R340, R342: what the step does on the turns of the sampler, the host and the reset input, and on a
turn of an idle engine; while the reset input is asserted no agent steps and host accesses have no effect. The turns are
the model's choice (log entries 1 and 14). -/
def Obligations.StepOfOtherAgents : Prop :=
  ∀ (s : State) (rest : List Turn),
    (∀ v, s.world.inReset = false → s.world.turns = .sample v :: rest → step s = .next (s.dropTurn.samplePin v)) ∧
    (∀ a, s.world.inReset = false → s.world.turns = .hostRead a :: rest → step s = .next (s.dropTurn.hostRead a)) ∧
    (∀ a w, s.world.inReset = false → s.world.turns = .hostWrite a w :: rest →
      step s = .next (s.dropTurn.hostWrite a w)) ∧
    (∀ b, s.world.turns = .resetInput b :: rest → step s = .next (s.dropTurn.driveReset b)) ∧
    (∀ more, s.world.turns = .ce more :: rest → s.ce = none → step s = .next s.dropTurn) ∧
    (∀ t, s.world.inReset = true → s.world.turns = t :: rest → (∀ b, t ≠ .resetInput b) → step s = .next s.dropTurn)

/-- R311, R82: a turn of the engine is its atomic steps in a row; where another turn of the engine follows, the two do
what one longer turn does. Turns are the model's choice (log entry 1); this says that they add no behaviour. -/
def Obligations.EngineTurnsCompose : Prop :=
  ∀ (i : Instr) (s u v : State) (m n : Nat) (rest : List Turn),
    exec i { s with world := { s.world with turns := .ce m :: .ce n :: rest } } = .next u →
    exec i u = .next v →
    exec i { s with world := { s.world with turns := .ce (m + n + 1) :: rest } } = .next v

/-! ## Bus primitives and control -/

/-- R140: NOP completes with RESULT 0 and touches nothing else. -/
def Obligations.NopCompletes : Prop :=
  ∀ s : State, Starts .nop 1 s → exec .nop s = .next (s.completed 0 [] none 0#32)

/-- R142: BUS_OPEN opens each bus that is asked for and down, in the order register bus, serial bus. -/
def Obligations.BusOpenCompletes : Prop :=
  ∀ (mask : BitVec 2) (s : State), Starts (.busOpen mask) 7 s →
    let opensRb := mask.getLsbD 0 && !s.bus.rbUp
    let opensSb := mask.getLsbD 1 && !s.bus.sbUp
    let taken := opensRb.toNat + opensSb.toNat
    s.world.answersOk taken →
    exec (.busOpen mask) s = .next
      { s.completed taken ((if opensRb then [.busOpen .rb none] else []) ++ (if opensSb then [.busOpen .sb none] else []))
          none 0#32 with
        bus := { rbUp := s.bus.rbUp || mask.getLsbD 0, sbUp := s.bus.sbUp || mask.getLsbD 1, cs := s.bus.cs } }

/-- R142: a failed open ends BUS_OPEN with BusUnavailable; when the register bus fails the serial bus is not attempted,
when the serial bus fails after it the register bus stays up. -/
def Obligations.BusOpenFails : Prop :=
  ∀ (mask : BitVec 2) (s : State), Starts (.busOpen mask) 6 s →
    (mask.getLsbD 0 = true → s.bus.rbUp = false → (s.world.answerAt 0).isOk = false →
      exec (.busOpen mask) s = .next
        (s.completedFree 1 [.busOpen .rb (some .busUnavailable)] .busUnavailable)) ∧
    (mask.getLsbD 0 = true → s.bus.rbUp = false → mask.getLsbD 1 = true → s.bus.sbUp = false →
      (s.world.answerAt 0).isOk = true → (s.world.answerAt 1).isOk = false →
      exec (.busOpen mask) s = .next
        { s.completedFree 2 [.busOpen .rb none, .busOpen .sb (some .busUnavailable)] .busUnavailable with
          bus := { s.bus with rbUp := true } }) ∧
    ((mask.getLsbD 0 = false ∨ s.bus.rbUp = true) → mask.getLsbD 1 = true → s.bus.sbUp = false →
      (s.world.answerAt 0).isOk = false →
      exec (.busOpen mask) s = .next
        (s.completedFree 1 [.busOpen .sb (some .busUnavailable)] .busUnavailable))

/-- R144: BUS_CLOSE takes down each bus that is asked for and up, chip select deasserted before the serial bus closes;
closing a closed bus does nothing. -/
def Obligations.BusCloseCompletes : Prop :=
  ∀ (mask : BitVec 2) (s : State), Starts (.busClose mask) 8 s →
    let closesRb := mask.getLsbD 0 && s.bus.rbUp
    let closesSb := mask.getLsbD 1 && s.bus.sbUp
    exec (.busClose mask) s = .next
      { s.completed 0
          ((if closesRb then [.busClose .rb] else []) ++
            (if closesSb then (if s.bus.cs then [.sbCs false] else []) ++ [.busClose .sb] else [])) none 0#32 with
        bus := { rbUp := s.bus.rbUp && !mask.getLsbD 0, sbUp := s.bus.sbUp && !mask.getLsbD 1,
                 cs := s.bus.cs && !closesSb } }

/-- R146, R111: RB_WRITE sends one write frame, the address of the width CFG.AW says and then the value. -/
def Obligations.RbWriteCompletes : Prop :=
  ∀ (addr : RegAddr) (val : Byte) (s : State), Starts (.rbWrite addr val) 4 s →
    (s.cfg.aw = true ∨ hiByte addr = 0#8) → s.bus.rbUp = true → s.world.answersOk 1 →
    exec (.rbWrite addr val) s = .next (s.completed 1
      [.rbWrite (if s.cfg.aw then [hiByte addr, loByte addr, val] else [loByte addr, val]) none] none 0#32)

/-- R148, R112: RB_READ sends one read frame and returns the byte received. -/
def Obligations.RbReadCompletes : Prop :=
  ∀ (addr : RegAddr) (s : State), Starts (.rbRead addr) 4 s →
    (s.cfg.aw = true ∨ hiByte addr = 0#8) → s.bus.rbUp = true → s.world.answersOk 1 →
    exec (.rbRead addr) s = .next (s.completed 1
      [.rbRead (if s.cfg.aw then [hiByte addr, loByte addr] else [loByte addr]) (.byte (s.world.byteAt 0))] none
      (zext32 (s.world.byteAt 0)))

/-- R305, R104 (c), R141, R146, R148: the errors of RB_WRITE and RB_READ in their order: an address too wide for 8-bit
mode, the bus down, the frame's own error with the failed frame recorded. -/
def Obligations.RegisterBusErrorOrder : Prop :=
  ∀ (i : Instr) (addr : RegAddr) (s : State), (i = .rbRead addr ∨ ∃ val, i = .rbWrite addr val) → Starts i 4 s →
    (s.cfg.aw = false → hiByte addr ≠ 0#8 → exec i s = .next (s.completedFree 0 [] .illegalCommand)) ∧
    ((s.cfg.aw = true ∨ hiByte addr = 0#8) → s.bus.rbUp = false →
      exec i s = .next (s.completedFree 0 [] .busUnavailable)) ∧
    (∀ e, (s.cfg.aw = true ∨ hiByte addr = 0#8) → s.bus.rbUp = true → (s.world.answerAt 0).rbError = some e →
      (∀ val, i = .rbWrite addr val → exec i s = .next (s.completedFree 1
        [.rbWrite (if s.cfg.aw then [hiByte addr, loByte addr, val] else [loByte addr, val]) (some e)] e)) ∧
      (i = .rbRead addr → exec i s = .next (s.completedFree 1
        [.rbRead (if s.cfg.aw then [hiByte addr, loByte addr] else [loByte addr]) (.failed e)] e)))

/-- R150, R152, R116: SB_XFER_BYTE makes one transfer, chip select asserted or not, and returns the byte received;
SB_XFER_WORD sends the upper byte first and assembles the bytes received upper byte first. -/
def Obligations.SerialTransfersComplete : Prop :=
  ∀ s : State, s.bus.sbUp = true →
    (∀ byte, Starts (.sbXferByte byte) 3 s → s.world.answersOk 1 →
      exec (.sbXferByte byte) s = .next
        (s.completed 1 [sent byte (s.world.byteAt 0)] none (zext32 (s.world.byteAt 0)))) ∧
    (∀ word, Starts (.sbXferWord word) 4 s → s.world.answersOk 2 →
      exec (.sbXferWord word) s = .next (s.completed 2
        [sent (hiByte word) (s.world.byteAt 0), sent (loByte word) (s.world.byteAt 1)] none
        (zext32 (s.world.byteAt 0 ++ s.world.byteAt 1))))

/-- R154: SB_CS drives chip select and records it, also where it does not change. -/
def Obligations.SbCsCompletes : Prop :=
  ∀ (a : BitVec 1) (s : State), Starts (.sbCs a) 3 s → s.bus.sbUp = true →
    exec (.sbCs a) s = .next
      { s.completed 0 [.sbCs (a == 1#1)] none 0#32 with bus := { s.bus with cs := a == 1#1 } }

/-- R141, R143, R145: the serial-bus primitives end with BusUnavailable when the bus is down; a failed transfer ends
them with IOFailure, the transfers before it recorded, chip select as it was. -/
def Obligations.SerialPrimitiveErrors : Prop :=
  ∀ (i : Instr) (s : State), Starts i 4 s →
    (((∃ b, i = .sbXferByte b) ∨ (∃ w, i = .sbXferWord w) ∨ ∃ a, i = .sbCs a) → s.bus.sbUp = false →
      exec i s = .next (s.completedFree 0 [] .busUnavailable)) ∧
    (∀ b, i = .sbXferByte b → s.bus.sbUp = true → (s.world.answerAt 0).isOk = false →
      exec i s = .next (s.completedFree 1 [failedTransfer b] .ioFailure)) ∧
    (∀ w, i = .sbXferWord w → s.bus.sbUp = true → (s.world.answerAt 0).isOk = false →
      exec i s = .next (s.completedFree 1 [failedTransfer (hiByte w)] .ioFailure)) ∧
    (∀ w, i = .sbXferWord w → s.bus.sbUp = true → (s.world.answerAt 0).isOk = true →
      (s.world.answerAt 1).isOk = false →
      exec i s = .next (s.completedFree 2 [sent (hiByte w) (s.world.byteAt 0), failedTransfer (loByte w)] .ioFailure))

/-! ## Sequencer -/

/-- R182, R183, R184, R187, R188: for a list of `m` well-formed entries and then the sentinel, CFG_APPLY writes exactly
the `m` entries in order, each between two settle delays, never the sentinel, and returns `m`. The bytes sent for an
entry are those of R110 and R111. -/
def Obligations.CfgApplyWritesListInOrder : Prop :=
  ∀ (base : BitVec 16) (m : Nat) (s : State), Starts (.cfgApply base) (7 + 9 * m) s → s.bus.rbUp = true →
    ListEntries s base.toNat m → SentinelAt s (base.toNat + m) → s.world.answersOk m →
    exec (.cfgApply base) s = .next (s.completed m
      (applyEvents s base.toNat m ++ [.cfgRead (base.toNat + m) (s.cfgWordAt (base.toNat + m))]) none
      (BitVec.ofNat 32 m)) ∧
    ∀ e : Word, rbWriteBytes s.cfg.aw (entryAddr e) (entryVal e) =
      if s.cfg.aw then [e.extractLsb' 8 8, e.extractLsb' 0 8, e.extractLsb' 16 8]
      else [e.extractLsb' 0 8, e.extractLsb' 16 8]

/-- R182, R185, R181, R188: after `m` entries CFG_APPLY ends with ListOverrun at the end of CFGMEM, with MalformedEntry
at a malformed entry, with the frame's error at a failed write; RESULT is `m`. A closed bus gives RESULT 0. -/
def Obligations.CfgApplyErrorsCountEntries : Prop :=
  ∀ (base : BitVec 16) (m : Nat) (s : State), Starts (.cfgApply base) (9 + 9 * m) s →
    (s.bus.rbUp = false → exec (.cfgApply base) s = .next (s.completed 0 [] (some .busUnavailable) 0#32)) ∧
    (s.bus.rbUp = true → ListEntries s base.toNat m → s.world.answersOk m →
      (s.params.cfgWords ≤ base.toNat + m →
        exec (.cfgApply base) s = .next (s.completed m (applyEvents s base.toNat m) (some .listOverrun)
          (BitVec.ofNat 32 m))) ∧
      (base.toNat + m < s.params.cfgWords → entryMalformed s.cfg.aw (s.cfgWordAt (base.toNat + m)) = true →
        exec (.cfgApply base) s = .next (s.completed m
          (applyEvents s base.toNat m ++ [.cfgRead (base.toNat + m) (s.cfgWordAt (base.toNat + m))])
          (some .malformedEntry) (BitVec.ofNat 32 m))) ∧
      (∀ e, ListEntries s base.toNat (m + 1) → (s.world.answerAt m).rbError = some e →
        exec (.cfgApply base) s = .next (s.completed (m + 1)
          (applyEvents s base.toNat m ++
            [.cfgRead (base.toNat + m) (s.cfgWordAt (base.toNat + m)), .delay .settle,
             .rbWrite (rbWriteBytes s.cfg.aw (entryAddr (s.cfgWordAt (base.toNat + m)))
               (entryVal (s.cfgWordAt (base.toNat + m)))) (some e)])
          (some e) (BitVec.ofNat 32 m))))

/-- R186, R188, R110: CFG_READ reads each entry's register, in order, and replaces the entry's value, bits 23:16, by the
byte read, its address, bits 15:0, and bits 31:24 kept; the termination test is on the entry as it was before the command. -/
def Obligations.CfgReadReplacesValues : Prop :=
  ∀ (base : BitVec 16) (m : Nat) (s : State), Starts (.cfgRead base) (7 + 10 * m) s → s.bus.rbUp = true →
    ListEntries s base.toNat m → SentinelAt s (base.toNat + m) → s.world.answersOk m →
    let t : State :=
      { s.completed m (readBackEvents s base.toNat m ++ [.cfgRead (base.toNat + m) (s.cfgWordAt (base.toNat + m))]) none
          (BitVec.ofNat 32 m) with
        cfgmem := readBackMemory s base.toNat m }
    exec (.cfgRead base) s = .next t ∧
    (∀ j < m, t.cfgWordAt (base.toNat + j) = entryWithVal (s.cfgWordAt (base.toNat + j)) (s.world.byteAt j) ∧
      (t.cfgWordAt (base.toNat + j)).extractLsb' 0 16 = (s.cfgWordAt (base.toNat + j)).extractLsb' 0 16 ∧
      (t.cfgWordAt (base.toNat + j)).extractLsb' 16 8 = s.world.byteAt j ∧
      (t.cfgWordAt (base.toNat + j)).extractLsb' 24 8 = (s.cfgWordAt (base.toNat + j)).extractLsb' 24 8) ∧
    (∀ a, (a < 4 * base.toNat ∨ 4 * (base.toNat + m) ≤ a) → t.cfgByte a = s.cfgByte a)

/-- R186, R188: a failed read at entry `m` ends CFG_READ with the frame's error and RESULT `m`; that entry and the ones
after it stay as they were. ListOverrun, MalformedEntry and a closed bus are as for CFG_APPLY. -/
def Obligations.CfgReadErrorsCountEntries : Prop :=
  ∀ (base : BitVec 16) (m : Nat) (s : State), Starts (.cfgRead base) (9 + 10 * m) s →
    (s.bus.rbUp = false → exec (.cfgRead base) s = .next (s.completed 0 [] (some .busUnavailable) 0#32)) ∧
    (s.bus.rbUp = true → ListEntries s base.toNat m → s.world.answersOk m →
      (s.params.cfgWords ≤ base.toNat + m →
        exec (.cfgRead base) s = .next
          { s.completed m (readBackEvents s base.toNat m) (some .listOverrun) (BitVec.ofNat 32 m) with
            cfgmem := readBackMemory s base.toNat m }) ∧
      (base.toNat + m < s.params.cfgWords → entryMalformed s.cfg.aw (s.cfgWordAt (base.toNat + m)) = true →
        exec (.cfgRead base) s = .next
          { s.completed m
              (readBackEvents s base.toNat m ++ [.cfgRead (base.toNat + m) (s.cfgWordAt (base.toNat + m))])
              (some .malformedEntry) (BitVec.ofNat 32 m) with
            cfgmem := readBackMemory s base.toNat m }) ∧
      (∀ e, ListEntries s base.toNat (m + 1) → (s.world.answerAt m).rbError = some e →
        exec (.cfgRead base) s = .next
          { s.completed (m + 1)
              (readBackEvents s base.toNat m ++
                [.cfgRead (base.toNat + m) (s.cfgWordAt (base.toNat + m)), .delay .settle,
                 .rbRead (rbReadBytes s.cfg.aw (entryAddr (s.cfgWordAt (base.toNat + m)))) (.failed e)])
              (some e) (BitVec.ofNat 32 m) with
            cfgmem := readBackMemory s base.toNat m }))

/-- R113, R181, R110: an entry is malformed exactly when 8-bit mode finds bits 15:8 not zero. The sentinel is the entry
whose address, bits 15:0, and value, bits 23:16, both equal the width's terminator; an entry that matches in one field
only is none. -/
def Obligations.SentinelNeedsBothFields : Prop :=
  ∀ (aw : Bool) (e : Word),
    (entryMalformed aw e = true ↔ aw = false ∧ e.extractLsb' 8 8 ≠ 0#8) ∧
    (entryMalformed aw e = false →
      (isSentinel aw e = true ↔
        e.extractLsb' 0 16 = (if aw then 0xFFFF#16 else 0x00FF#16) ∧ e.extractLsb' 16 8 = 0xFF#8))

/-! ## Capture controller -/

/-- R212: a self-test whose first `k` attempts fail, by a mismatch or by a failed transfer of the write or of the read,
and whose next one reads the pattern, makes exactly `k + 1` attempts, with a delay after each failed one, and returns
their number. -/
def Obligations.SelfTestPassesAfterMismatches : Prop :=
  ∀ (maxAtt : BitVec 16) (k : Nat) (s : State), Starts (.fccSelfTest maxAtt) (13 + 14 * k) s →
    s.bus.sbUp = true → s.bus.cs = false → (maxAtt = 0#16 ∨ k < maxAtt.toNat) →
    (∀ j < k, attemptOutcome s.world s.params (attemptStart s.world j) ≠ none) →
    attemptOutcome s.world s.params (attemptStart s.world k) = none →
    exec (.fccSelfTest maxAtt) s = .next
      (s.completed (attemptStart s.world (k + 1))
        (retriedEvents s.world s.params k ++ attemptEvents s.world s.params (attemptStart s.world k)) none
        (attemptCount (k + 1)))

/-- R212, R300: a self-test of at most `k + 1` attempts that all fail, by a mismatch or by a failed transfer, gives up
after exactly that many, with the last one's outcome, ProtocolMismatch or IOFailure, and with no delay after the last. -/
def Obligations.SelfTestGivesUp : Prop :=
  ∀ (maxAtt : BitVec 16) (k : Nat) (s : State), Starts (.fccSelfTest maxAtt) (15 + 14 * k) s →
    s.bus.sbUp = true → s.bus.cs = false → maxAtt.toNat = k + 1 →
    (∀ j ≤ k, attemptOutcome s.world s.params (attemptStart s.world j) ≠ none) →
    exec (.fccSelfTest maxAtt) s = .next
      (s.completed (attemptStart s.world (k + 1))
        (retriedEvents s.world s.params k ++ attemptEvents s.world s.params (attemptStart s.world k))
        (attemptOutcome s.world s.params (attemptStart s.world k)) (zext32 maxAtt))

/-- R216, R218: FCC_FLUSH writes FIFO_CLEAR_MASK to REG_FIFO in one frame and FST becomes Idle; FCC_TRIGGER writes
FIFO_START_MASK to REG_FIFO in one frame and FST becomes Capturing. -/
def Obligations.FlushAndTriggerComplete : Prop :=
  ∀ s : State, s.bus.sbUp = true → s.bus.cs = false → s.world.answersOk 2 →
    (Starts .fccFlush 9 s → s.fst ≠ .capturing →
      exec .fccFlush s = .next
        { s.completed 2 (writeFrameAt s.world s.params.regFifo s.params.fifoClearMask 0) none 0#32 with
          fst := .idle }) ∧
    (Starts .fccTrigger 9 s → s.fst = .idle →
      exec .fccTrigger s = .next
        { s.completed 2 (writeFrameAt s.world s.params.regFifo s.params.fifoStartMask 0) none 0#32 with
          fst := .capturing })

/-- R220: FCC_POLLDONE makes one read and returns the done bit; FST becomes Done from Capturing only. -/
def Obligations.PollDoneCompletes : Prop :=
  ∀ s : State, Starts .fccPollDone 10 s → s.bus.sbUp = true → s.bus.cs = false → s.world.answersOk 2 →
    let isDone := s.world.byteAt 1 &&& s.params.capDoneMask ≠ 0#8
    exec .fccPollDone s = .next
      { s.completed 2 (readFrameAt s.world s.params.regTrig 0) none (if isDone then 1#32 else 0#32) with
        fst := if isDone ∧ s.fst = .capturing then .done else s.fst }

/-- R224, R117: FCC_READLEN reads the three length registers and returns the assembled length: byte 3 above byte 2 above
byte 1, masked to 23 bits. -/
def Obligations.ReadLenCompletes : Prop :=
  ∀ s : State, Starts .fccReadLen 15 s → s.bus.sbUp = true → s.bus.cs = false → s.world.answersOk 6 →
    exec .fccReadLen s = .next
      (s.completed 6 (lengthFramesAt s.world s.params 0) none (zext32 (lengthAt s.world 0))) ∧
    (lengthAt s.world 0).toNat =
      ((s.world.byteAt 5).toNat * 0x10000 + (s.world.byteAt 3).toNat * 0x100 + (s.world.byteAt 1).toNat) % 0x800000

/-- R228, R118, R231, R75 (d): FCC_BURSTREAD reads the length and then that many bytes in one frame into BUF in
transfer order; BUFLEN and RESULT are the length, the bytes at and above it are as before. -/
def Obligations.BurstReadFillsBuffer : Prop :=
  ∀ (cap : BitVec 24) (s : State),
    let len := lengthAt s.world 0
    Starts (.fccBurstRead cap) (25 + 4 * len.toNat) s → cap.toNat ≤ s.params.bufBytes →
    s.bus.sbUp = true → s.bus.cs = false → s.fst = .done → s.world.answersOk (7 + len.toNat) →
    len.toNat ≤ cap.toNat →
    let t : State :=
      { s.completed (7 + len.toNat)
          (lengthFramesAt s.world s.params 0 ++ burstFrameAt s.world s.params 6 len.toNat) none (zext32 len) with
        buf := storeBurst s.world 7 s.buf 0 len.toNat
        bufLen := len.setWidth 24 }
    exec (.fccBurstRead cap) s = .next t ∧
    (∀ k < len.toNat, t.bufByte k = s.world.byteAt (7 + k)) ∧
    (∀ k, len.toNat ≤ k → t.bufByte k = s.bufByte k)

/-- R228, R236, R231: a length over the capacity ends FCC_BURSTREAD and FCC_SINGLECAPTURE with BufferOverflow after the
length reads: no burst frame, BUF and BUFLEN as before. FCC_SINGLECAPTURE, here after `misses` polls that find the done
bit clear, leaves FST Done. -/
def Obligations.BurstReadOverflow : Prop :=
  ∀ (cap : BitVec 24) (s : State), cap.toNat ≤ s.params.bufBytes → s.bus.sbUp = true → s.bus.cs = false →
    (Starts (.fccBurstRead cap) 18 s → s.fst = .done → s.world.answersOk 6 →
      cap.toNat < (lengthAt s.world 0).toNat →
      exec (.fccBurstRead cap) s = .next (s.completedFree 6 (lengthFramesAt s.world s.params 0) .bufferOverflow)) ∧
    (∀ misses : Nat, Starts (.fccSingleCapture cap) (34 + 7 * misses) s → s.fst ≠ .capturing →
      s.world.answersOk (12 + 2 * misses) →
      (∀ j < misses, s.world.byteAt (5 + 2 * j) &&& s.params.capDoneMask = 0#8) →
      s.world.byteAt (5 + 2 * misses) &&& s.params.capDoneMask ≠ 0#8 →
      cap.toNat < (lengthAt s.world (6 + 2 * misses)).toNat →
      exec (.fccSingleCapture cap) s = .next
        { s.completedFree (12 + 2 * misses)
            (pollEvents s misses ++ readFrameAt s.world s.params.regTrig (4 + 2 * misses) ++
              lengthFramesAt s.world s.params (6 + 2 * misses)) .bufferOverflow with
          fst := .done })

/-- R236: FCC_SINGLECAPTURE flushes, triggers, polls until the done bit is set (here after `misses` polls that find it
clear, a delay after each), reads the length and the frame; FST ends in Done. -/
def Obligations.SingleCaptureFillsBuffer : Prop :=
  ∀ (cap : BitVec 24) (misses : Nat) (s : State),
    let d := 6 + 2 * misses
    let len := lengthAt s.world d
    Starts (.fccSingleCapture cap) (41 + 7 * misses + 4 * len.toNat) s → cap.toNat ≤ s.params.bufBytes →
    s.bus.sbUp = true → s.bus.cs = false → s.fst ≠ .capturing → s.world.answersOk (d + 7 + len.toNat) →
    (∀ j < misses, s.world.byteAt (5 + 2 * j) &&& s.params.capDoneMask = 0#8) →
    s.world.byteAt (5 + 2 * misses) &&& s.params.capDoneMask ≠ 0#8 →
    len.toNat ≤ cap.toNat →
    exec (.fccSingleCapture cap) s = .next
      { s.completed (d + 7 + len.toNat)
          (writeFrameAt s.world s.params.regFifo s.params.fifoClearMask 0 ++
            writeFrameAt s.world s.params.regFifo s.params.fifoStartMask 2 ++ missedPolls s 4 misses ++
            readFrameAt s.world s.params.regTrig (4 + 2 * misses) ++ lengthFramesAt s.world s.params d ++
            burstFrameAt s.world s.params (d + 6) len.toNat) none (zext32 len) with
        fst := .done
        buf := storeBurst s.world (d + 7) s.buf 0 len.toNat
        bufLen := len.setWidth 24 }

/-- R246, R248, R250: FCC_WRITE_REG makes one write frame, the address with bit 0x80 set; FCC_READ_REG makes one read
frame, the address masked with 0x7F, and returns the byte received. -/
def Obligations.RegisterCommandsComplete : Prop :=
  ∀ (reg val : Byte) (s : State), s.bus.sbUp = true → s.bus.cs = false → s.world.answersOk 2 →
    (Starts (.fccWriteReg reg val) 7 s → exec (.fccWriteReg reg val) s = .next (s.completed 2
      [.sbCs true, sent (reg ||| 0x80#8) (s.world.byteAt 0), sent val (s.world.byteAt 1), .sbCs false] none 0#32)) ∧
    (Starts (.fccReadReg reg) 7 s → exec (.fccReadReg reg) s = .next (s.completed 2
      [.sbCs true, sent (reg &&& 0x7F#8) (s.world.byteAt 0), sent 0x00#8 (s.world.byteAt 1), .sbCs false] none
      (zext32 (s.world.byteAt 1))))

/-- R254, R256, R258: FCC_SETBIT and FCC_CLRBIT read the register and write the value back with the mask bits set or
clear; FCC_GETBIT reads it and returns the masked value. -/
def Obligations.BitCommandsComplete : Prop :=
  ∀ (reg mask : Byte) (s : State), s.bus.sbUp = true → s.bus.cs = false →
    (Starts (.fccSetBit reg mask) 11 s → s.world.answersOk 4 → exec (.fccSetBit reg mask) s = .next (s.completed 4
      (readFrameAt s.world reg 0 ++ writeFrameAt s.world reg (s.world.byteAt 1 ||| mask) 2) none 0#32)) ∧
    (Starts (.fccClrBit reg mask) 11 s → s.world.answersOk 4 → exec (.fccClrBit reg mask) s = .next (s.completed 4
      (readFrameAt s.world reg 0 ++ writeFrameAt s.world reg (s.world.byteAt 1 &&& ~~~mask) 2) none 0#32)) ∧
    (Starts (.fccGetBit reg mask) 7 s → s.world.answersOk 2 → exec (.fccGetBit reg mask) s = .next (s.completed 2
      (readFrameAt s.world reg 0) none (zext32 (s.world.byteAt 1 &&& mask))))

/-- R210, R305: the checks of every FCC command in their order, before any traffic: the capacity, the serial bus, chip
select, the FIFO state. No event is recorded and nothing is touched but the completion fields; FCC_SELFTEST leaves
RESULT 0. -/
def Obligations.FccCheckOrder : Prop :=
  ∀ (i : Instr) (s : State), isFcc i = true → Starts i 4 s →
    ∀ e : Err,
      ((i.wellFormed s.cfg.aw s.params.bufBytes = false ∧ e = .illegalCommand) ∨
        (i.wellFormed s.cfg.aw s.params.bufBytes = true ∧ s.bus.sbUp = false ∧ e = .busUnavailable) ∨
        (i.wellFormed s.cfg.aw s.params.bufBytes = true ∧ s.bus.sbUp = true ∧ s.bus.cs = true ∧ e = .illegalState) ∨
        (i.wellFormed s.cfg.aw s.params.bufBytes = true ∧ s.bus.sbUp = true ∧ s.bus.cs = false ∧
          fifoStateAllows i s.fst = false ∧ e = .illegalState)) →
      ∃ r k, exec i s = .next { s.completed 0 [] (some e) r with world := { s.world.dropTurn with tick := k } } ∧
        (∀ m, i = .fccSelfTest m → r = 0#32)

/-- R211, R213, R212: when the first transfer of an FCC command fails, chip select is released and the command ends with
IOFailure; FST, BUF and BUFLEN are as before. For FCC_SELFTEST with one permitted attempt RESULT is 1, whichever of the
attempt's four transfers fails. -/
def Obligations.FccFirstTransferFailure : Prop :=
  (∀ (i : Instr) (s : State), isFcc i = true → (∀ m, i ≠ .fccSelfTest m) → Starts i 8 s →
    i.wellFormed s.cfg.aw s.params.bufBytes = true → s.bus.sbUp = true → s.bus.cs = false →
    fifoStateAllows i s.fst = true → (s.world.answerAt 0).isOk = false →
    exec i s = .next
      (s.completedFree 1 [.sbCs true, failedTransfer (firstTransfer s.params i), .sbCs false] .ioFailure)) ∧
  (∀ s : State, Starts (.fccSelfTest 1#16) 13 s → s.bus.sbUp = true → s.bus.cs = false →
    (∀ j < 4, s.world.answersOk j → (s.world.answerAt j).isOk = false →
      exec (.fccSelfTest 1#16) s = .next (s.completed (j + 1)
        ((if j < 2 then writeFrameTried s.world s.params.regTest s.params.testPattern 0
          else writeFrameAt s.world s.params.regTest s.params.testPattern 0 ++ readFrameTried s.world s.params.regTest 2))
        (some .ioFailure) 1#32)))

/-- R211, R213, R224, R228, R302: when a transfer of a register frame of an FCC command fails, the first or a later one,
the frames before it are recorded, chip select is released, no later frame is made and the command ends with IOFailure.
FST, BUF and BUFLEN are as before: a failed flush or trigger makes no transition, a failed length read writes nothing, a
failed read of FCC_SETBIT or FCC_CLRBIT makes no write. FCC_SINGLECAPTURE is the next statement's, FCC_SELFTEST that of
SelfTestGivesUp. -/
def Obligations.FccFailedFrameEndsCommand : Prop :=
  ∀ s : State, s.bus.sbUp = true → s.bus.cs = false →
    (frameOk s.world 0 = false →
      (Starts .fccFlush 8 s → s.fst ≠ .capturing → exec .fccFlush s = .next (s.completedFree (frameTaken s.world 0)
        (writeFrameTried s.world s.params.regFifo s.params.fifoClearMask 0) .ioFailure)) ∧
      (Starts .fccTrigger 8 s → s.fst = .idle → exec .fccTrigger s = .next (s.completedFree (frameTaken s.world 0)
        (writeFrameTried s.world s.params.regFifo s.params.fifoStartMask 0) .ioFailure)) ∧
      (Starts .fccPollDone 7 s → exec .fccPollDone s = .next (s.completedFree (frameTaken s.world 0)
        (readFrameTried s.world s.params.regTrig 0) .ioFailure)) ∧
      (∀ reg val, Starts (.fccWriteReg reg val) 7 s → exec (.fccWriteReg reg val) s = .next
        (s.completedFree (frameTaken s.world 0) (writeFrameTried s.world reg val 0) .ioFailure)) ∧
      (∀ i reg, (i = .fccReadReg reg ∨ ∃ mask, i = .fccGetBit reg mask ∨ i = .fccSetBit reg mask ∨
          i = .fccClrBit reg mask) → Starts i 7 s → exec i s = .next
        (s.completedFree (frameTaken s.world 0) (readFrameTried s.world reg 0) .ioFailure))) ∧
    (frameOk s.world 0 = true → frameOk s.world 2 = false → ∀ reg mask,
      (Starts (.fccSetBit reg mask) 11 s → exec (.fccSetBit reg mask) s = .next
        (s.completedFree (2 + frameTaken s.world 2)
          (readFrameAt s.world reg 0 ++ writeFrameTried s.world reg (s.world.byteAt 1 ||| mask) 2) .ioFailure)) ∧
      (Starts (.fccClrBit reg mask) 11 s → exec (.fccClrBit reg mask) s = .next
        (s.completedFree (2 + frameTaken s.world 2)
          (readFrameAt s.world reg 0 ++ writeFrameTried s.world reg (s.world.byteAt 1 &&& ~~~mask) 2) .ioFailure))) ∧
    (lengthOk s.world 0 = false →
      (Starts .fccReadLen 15 s → exec .fccReadLen s = .next (s.completedFree (lengthTaken s.world 0)
        (lengthTried s.world s.params 0) .ioFailure)) ∧
      (∀ cap, Starts (.fccBurstRead cap) 17 s → cap.toNat ≤ s.params.bufBytes → s.fst = .done →
        exec (.fccBurstRead cap) s = .next (s.completedFree (lengthTaken s.world 0)
          (lengthTried s.world s.params 0) .ioFailure)))

/-- R211, R213, R231, R236, R302: what an IOFailure leaves at each later stage of a capture. In FCC_SINGLECAPTURE FST is
left at the last state reached: as it was when the flush fails, Idle when the trigger fails, Capturing when a poll fails
(here the one after `misses` that find the done bit clear), Done when a length read fails. A burst frame whose transfer
number `m` fails, in FCC_BURSTREAD or FCC_SINGLECAPTURE, the control byte being number 0, leaves chip select released,
BUFLEN 0, exactly the `m - 1` bytes received stored, and FST Done. -/
def Obligations.CaptureFailureStages : Prop :=
  ∀ (cap : BitVec 24) (s : State), cap.toNat ≤ s.params.bufBytes → s.bus.sbUp = true → s.bus.cs = false →
    (∀ misses : Nat, Starts (.fccSingleCapture cap) (33 + 7 * misses) s → s.fst ≠ .capturing →
      (∀ j < misses, s.world.byteAt (5 + 2 * j) &&& s.params.capDoneMask = 0#8) →
      (frameOk s.world 0 = false → exec (.fccSingleCapture cap) s = .next (s.completedFree (frameTaken s.world 0)
        (writeFrameTried s.world s.params.regFifo s.params.fifoClearMask 0) .ioFailure)) ∧
      (s.world.answersOk 2 → frameOk s.world 2 = false → exec (.fccSingleCapture cap) s = .next
        { s.completedFree (2 + frameTaken s.world 2)
            (writeFrameAt s.world s.params.regFifo s.params.fifoClearMask 0 ++
              writeFrameTried s.world s.params.regFifo s.params.fifoStartMask 2) .ioFailure with
          fst := .idle }) ∧
      (s.world.answersOk (4 + 2 * misses) → frameOk s.world (4 + 2 * misses) = false →
        exec (.fccSingleCapture cap) s = .next
          { s.completedFree (4 + 2 * misses + frameTaken s.world (4 + 2 * misses))
              (pollEvents s misses ++ readFrameTried s.world s.params.regTrig (4 + 2 * misses)) .ioFailure with
            fst := .capturing }) ∧
      (s.world.answersOk (6 + 2 * misses) → s.world.byteAt (5 + 2 * misses) &&& s.params.capDoneMask ≠ 0#8 →
        lengthOk s.world (6 + 2 * misses) = false →
        exec (.fccSingleCapture cap) s = .next
          { s.completedFree (6 + 2 * misses + lengthTaken s.world (6 + 2 * misses))
              (pollEvents s misses ++ readFrameAt s.world s.params.regTrig (4 + 2 * misses) ++
                lengthTried s.world s.params (6 + 2 * misses)) .ioFailure with
            fst := .done })) ∧
    (∀ m : Nat, Starts (.fccBurstRead cap) (23 + 4 * m) s → s.fst = .done → s.world.answersOk (6 + m) →
      (s.world.answerAt (6 + m)).isOk = false → m ≤ (lengthAt s.world 0).toNat →
      (lengthAt s.world 0).toNat ≤ cap.toNat →
      let t : State :=
        { s.completedFree (7 + m) (lengthFramesAt s.world s.params 0 ++ burstFrameCut s.world s.params 6 m)
            .ioFailure with
          buf := storeBurst s.world 7 s.buf 0 (m - 1)
          bufLen := 0#24 }
      exec (.fccBurstRead cap) s = .next t ∧ (∀ k < m - 1, t.bufByte k = s.world.byteAt (7 + k)) ∧
        ∀ k, m - 1 ≤ k → t.bufByte k = s.bufByte k) ∧
    (∀ misses m : Nat, Starts (.fccSingleCapture cap) (39 + 7 * misses + 4 * m) s → s.fst ≠ .capturing →
      (∀ j < misses, s.world.byteAt (5 + 2 * j) &&& s.params.capDoneMask = 0#8) →
      s.world.byteAt (5 + 2 * misses) &&& s.params.capDoneMask ≠ 0#8 → s.world.answersOk (12 + 2 * misses + m) →
      (s.world.answerAt (12 + 2 * misses + m)).isOk = false → m ≤ (lengthAt s.world (6 + 2 * misses)).toNat →
      (lengthAt s.world (6 + 2 * misses)).toNat ≤ cap.toNat →
      let t : State :=
        { s.completedFree (13 + 2 * misses + m)
            (pollEvents s misses ++ readFrameAt s.world s.params.regTrig (4 + 2 * misses) ++
              lengthFramesAt s.world s.params (6 + 2 * misses) ++
              burstFrameCut s.world s.params (12 + 2 * misses) m) .ioFailure with
          fst := .done
          buf := storeBurst s.world (13 + 2 * misses) s.buf 0 (m - 1)
          bufLen := 0#24 }
      exec (.fccSingleCapture cap) s = .next t ∧
        (∀ k < m - 1, t.bufByte k = s.world.byteAt (13 + 2 * misses + k)) ∧
        ∀ k, m - 1 ≤ k → t.bufByte k = s.bufByte k)

/-- R211, R210: from every point of an FCC command that its passed checks describe (`Flight.Sound`, which the invariant
gives every command in flight and which holds at the start of every command), with chip select deasserted or its check
behind: at every later point of the turn behind that check chip select is asserted exactly inside the frames, and when
the command ends, on success and on every error, it is deasserted. -/
def Obligations.FccEndsWithChipSelectReleased : Prop :=
  ∀ (i : Instr) (s t : State) (f : Flight), isFcc i = true → s.ce = some f → f.Sound (progOf s.params i) s →
    s.bus.cs = false ∨ (progOf s.params i).csChecked f.pos = true → exec i s = .next t →
    (t.ce = none → t.bus.cs = false) ∧
    (∀ g, t.ce = some g → g.pos < (progOf s.params i).main.length → (progOf s.params i).csChecked g.pos = true →
      t.bus.cs = (progOf s.params i).selectedAt g.pos)

/-- R230: FCC_BURSTREAD and FCC_SINGLECAPTURE write no byte of BUF at or above the capacity, wherever they stand: from
every point of the command that its passed checks describe (`Flight.Sound`, which the invariant gives every command in
flight and which holds at the start of every command). -/
def Obligations.CaptureWritesBelowCapacity : Prop :=
  ∀ (i : Instr) (cap : BitVec 24) (s t : State) (f : Flight), (i = .fccBurstRead cap ∨ i = .fccSingleCapture cap) →
    s.ce = some f → f.Sound (progOf s.params i) s → exec i s = .next t →
    ∀ k, cap.toNat ≤ k → t.bufByte k = s.bufByte k

/-! ## What commands leave alone -/

/-- R47, R48, R231, R182, R186: only CFG_READ writes CFGMEM, only FCC_BURSTREAD and FCC_SINGLECAPTURE write BUF or
BUFLEN: from every state and at every point of the command, every other byte reads as before. -/
def Obligations.CommandsKeepMemories : Prop :=
  ∀ (i : Instr) (s t : State), exec i s = .next t →
    ((∀ base, i ≠ .cfgRead base) → ∀ a, t.cfgByte a = s.cfgByte a) ∧
    ((∀ cap, i ≠ .fccBurstRead cap) → (∀ cap, i ≠ .fccSingleCapture cap) →
      (∀ k, t.bufByte k = s.bufByte k) ∧ t.bufLen = s.bufLen)

/-- R44, R145: RBUP and SBUP change only by BUS_OPEN and BUS_CLOSE; CS only by SB_CS, the FCC commands and
BUS_CLOSE. -/
def Obligations.CommandsKeepBusState : Prop :=
  ∀ (i : Instr) (s t : State), exec i s = .next t →
    ((∀ m, i ≠ .busOpen m) → (∀ m, i ≠ .busClose m) → t.bus.rbUp = s.bus.rbUp ∧ t.bus.sbUp = s.bus.sbUp) ∧
    ((∀ a, i ≠ .sbCs a) → (∀ m, i ≠ .busClose m) → isFcc i = false → t.bus.cs = s.bus.cs)

/-- R43, R273, R37, R34, R304, R52, R340: no command writes CFG, the parameters, OVR or HERR; only BTN_ARM_WAIT touches the
button state, and never its debounced level or the run; events are only added; the command in flight keeps its word. -/
def Obligations.CommandsKeepTheRest : Prop :=
  ∀ (i : Instr) (s t : State), exec i s = .next t →
    t.cfg = s.cfg ∧ t.params = s.params ∧ t.status.ovr = s.status.ovr ∧ t.status.herr = s.status.herr ∧
    (i ≠ .btnArmWait → t.button = s.button) ∧
    (t.button.dlevel = s.button.dlevel ∧ t.button.cand = s.button.cand ∧ t.button.cnt = s.button.cnt ∧
      t.button.plevel = s.button.plevel) ∧
    s.history <+: t.history ∧
    t.world.inReset = s.world.inReset ∧ t.world.epoch = s.world.epoch ∧
    (∀ f, t.ce = some f → ∃ g, s.ce = some g ∧ f.word = g.word)

/-- R42, R213, R214, R250: FST changes only by the transitions of the state machine, from every point of a command where
the way to its changes is as recorded (`FstChange.Holds`, which the invariant gives every command in flight and which
holds at the start of every command). One atomic step changes FST only behind the frame that justifies it, recorded with
both transfers answered: the flush frame out of Idle or Done, the trigger frame out of Idle, a read of the done bit set
out of Capturing. A whole turn of FCC_FLUSH, FCC_TRIGGER or FCC_POLLDONE makes its one transition, FCC_SINGLECAPTURE
starts in Idle or Done, and no other command changes FST. -/
def Obligations.FifoStateTransitions : Prop :=
  ∀ (i : Instr) (s t : State) (f : Flight), s.ce = some f → (∀ c ∈ fstChanges s.params i, c.Holds f s) →
    exec i s = .next t →
    (s.world.moreSteps = 0 →
      t.fst = s.fst ∨
      ((i = .fccFlush ∨ ∃ cap, i = .fccSingleCapture cap) ∧ s.fst ≠ .capturing ∧ t.fst = .idle ∧
        ∃ r1 r2, lastFrame s.history = writeFrame s.params.regFifo s.params.fifoClearMask r1 r2) ∨
      ((i = .fccTrigger ∨ ∃ cap, i = .fccSingleCapture cap) ∧ s.fst = .idle ∧ t.fst = .capturing ∧
        ∃ r1 r2, lastFrame s.history = writeFrame s.params.regFifo s.params.fifoStartMask r1 r2) ∨
      ((i = .fccPollDone ∨ ∃ cap, i = .fccSingleCapture cap) ∧ s.fst = .capturing ∧ t.fst = .done ∧
        ∃ r1 r2, lastFrame s.history = readFrame s.params.regTrig r1 r2 ∧ r2 &&& s.params.capDoneMask ≠ 0#8)) ∧
    (t.fst = s.fst ∨
      (i = .fccFlush ∧ s.fst ≠ .capturing ∧ t.fst = .idle) ∨
      (i = .fccTrigger ∧ s.fst = .idle ∧ t.fst = .capturing) ∨
      (i = .fccPollDone ∧ s.fst = .capturing ∧ t.fst = .done) ∨
      (∃ cap, i = .fccSingleCapture cap ∧ (f.pos = 0 → s.fst ≠ .capturing)))

/-- R35, R76, R308, R53, R310: while a command runs RESULT, STATUS's sticky bits and ERR keep their values; when it ends
CDONE is 1 and irq is IE. -/
def Obligations.ResultOnlyAtCompletion : Prop :=
  ∀ (i : Instr) (s t : State), exec i s = .next t →
    (t.ce ≠ none → t.result = s.result ∧ t.status = s.status ∧ t.irq = s.irq) ∧
    (t.ce = none → t.status.cdone = true ∧ t.irq = s.cfg.ie)

/-! ## Button -/

/-- R271, R272, R273, R274, R275, R276: one sampler step. An invalid sample changes nothing. On a valid level the run
grows, saturating at 15, or starts at 1; a level that the run is long enough for and that is new becomes the debounced
level; where an older level was known and the filter accepts the edge, the edge is latched with its new level and the
button is Pressed. Nothing else changes. -/
def Obligations.SamplerStep : Prop :=
  ∀ (s : State) (v : Bool), s.samplePin .invalid = s ∧
    let b := s.button
    let run := if b.cand = some v then min (b.cnt.toNat + 1) 15 else 1
    let need := if s.cfg.dbn = 0#4 then 1 else s.cfg.dbn.toNat
    let accepted := need ≤ run ∧ b.dlevel ≠ some v
    let edge := accepted ∧ b.dlevel = some (!v) ∧
      (s.cfg.edge = .any ∨ (s.cfg.edge = .rising ∧ v = true) ∨ (s.cfg.edge = .falling ∧ v = false))
    ∃ c : Button,
      s.samplePin (.level v) = { s with button := c } ∧
      c.cand = some v ∧ c.cnt.toNat = run ∧
      (accepted → c.dlevel = some v) ∧ (¬ accepted → c.dlevel = b.dlevel) ∧
      (edge → c.pend = true ∧ c.plevel = v ∧ c.bst = .pressed) ∧
      (¬ edge → c.pend = b.pend ∧ c.plevel = b.plevel ∧ c.bst = b.bst)

/-- R272, R275: from a state whose run is not of level `v` and whose debounced level is not `v`, a sequence of samples
that are `v` or invalid makes `v` the debounced level exactly when it holds at least DBN samples of `v` (0 acting as 1);
invalid samples neither break nor extend the run. -/
def Obligations.DebounceCountsEqualSamples : Prop :=
  ∀ (s : State) (v : Bool) (samples : List Sample), s.button.cand ≠ some v → s.button.dlevel ≠ some v →
    (∀ x ∈ samples, x = .level v ∨ x = .invalid) →
    ((samples.foldl State.samplePin s).button.dlevel = some v ↔
      (if s.cfg.dbn = 0#4 then 1 else s.cfg.dbn.toNat) ≤ samples.count (.level v))

/-- R280: BTN_ARM_WAIT first discards the pending edge and arms, in one atomic step, and then waits. -/
def Obligations.BtnArmDiscardsStaleEdge : Prop :=
  ∀ s : State, Starts .btnArmWait 1 s →
    exec .btnArmWait s = .next
      { s with
        button := { s.button with pend := false, bst := .armed }
        ce := some { Flight.start (encode .btnArmWait) with pos := 1 }
        world := s.world.dropTurn }

/-- R280, R281: the wait of BTN_ARM_WAIT. While no edge is pending the engine makes no step and no event; when an edge is
pending the wait ends in one atomic step: PEND 0, BST Pressed, RESULT the edge's new level. -/
def Obligations.BtnWaitReturnsNewLevel : Prop :=
  ∀ (s : State) (f : Flight), s.ce = some f → f.pos = 1 →
    (s.button.pend = false → exec .btnArmWait s = .next { s with world := s.world.dropTurn }) ∧
    (s.button.pend = true → exec .btnArmWait s = .next
      { s.completed 0 [] none (if s.button.plevel then 1#32 else 0#32) with
        button := { s.button with pend := false, bst := .pressed } })

/-! ## Host port -/

/-- R32, R307: a CMD write is accepted when BUSY = 0: the word is latched and BUSY is 1, CDONE and ERR become 0 and irq
drops, everything else keeps its value; when BUSY = 1 it is dropped and OVR is set. A read of CMD returns 0. -/
def Obligations.CmdWriteStartsCommand : Prop :=
  ∀ (s : State) (w : Word),
    s.hostRead 0x000000#24 = { s with history := s.history ++ [.hostRead 0x000000#24 0#32 false] } ∧
    (s.busy = false → (s.hostWrite 0x000000#24 w).busy = true ∧ (s.hostWrite 0x000000#24 w).irq = false) ∧
    (s.busy = false → s.hostWrite 0x000000#24 w =
      { s with
        status := { s.status with cdone := false, err := none }
        ce := some (Flight.start w)
        history := s.history ++ [.hostWrite 0x000000#24 w .performed] }) ∧
    (s.busy = true → s.hostWrite 0x000000#24 w =
      { s with
        status := { s.status with ovr := true }
        history := s.history ++ [.hostWrite 0x000000#24 w .overrun] })

/-- R34: a STATUS write clears each of CDONE, OVR and HERR whose bit is 1 and changes nothing else, whether or not
BUSY = 1; clearing CDONE drops irq (R53, R310). -/
def Obligations.StatusWriteOneToClear : Prop :=
  ∀ (s : State) (w : Word), s.hostWrite 0x000001#24 w =
    { s with
      status := { cdone := s.status.cdone && !w.getLsbD 1, ovr := s.status.ovr && !w.getLsbD 2,
                  herr := s.status.herr && !w.getLsbD 3, err := s.status.err }
      history := s.history ++ [.hostWrite 0x000001#24 w .performed] } ∧
    (w.getLsbD 1 = true → (s.hostWrite 0x000001#24 w).irq = false)

/-- R36, R37: a CFG write when BUSY = 0 sets AW, DBN and IE, and EDGE to any transition for the field 0, 0->1 only for 1,
1->0 only for 2; the field 3 keeps EDGE. CFG then reads as the written bits with bits 31:8 zero. When BUSY = 1 it is dropped and HERR is set. -/
def Obligations.CfgWriteSetsFields : Prop :=
  ∀ (s : State) (w : Word),
    (s.busy = false →
      ∃ c : Cfg, s.hostWrite 0x000003#24 w =
          { s with cfg := c, history := s.history ++ [.hostWrite 0x000003#24 w .performed] } ∧
        c.aw = w.getLsbD 0 ∧ c.dbn = w.extractLsb' 3 4 ∧ c.ie = w.getLsbD 7 ∧
        (w.extractLsb' 1 2 = 0#2 → c.edge = .any) ∧ (w.extractLsb' 1 2 = 1#2 → c.edge = .rising) ∧
        (w.extractLsb' 1 2 = 2#2 → c.edge = .falling) ∧ (w.extractLsb' 1 2 = 3#2 → c.edge = s.cfg.edge) ∧
        (w.extractLsb' 1 2 ≠ 3#2 → c.edge.code = w.extractLsb' 1 2) ∧
        (w.extractLsb' 1 2 ≠ 3#2 → cfgWord c = w &&& 0xFF#32)) ∧
    (s.busy = true → s.hostWrite 0x000003#24 w =
      { s with
        status := { s.status with herr := true }
        history := s.history ++ [.hostWrite 0x000003#24 w .refused] })

/-- R31, R33, R35, R36, R38, R39, R40, R41, R300: a host read of a CSR records its word and changes nothing: CMD and the
reserved ones read 0, STATUS and CFG as their bits, ERR, FST, BST and EDGE with the numbers of their tables; a write to a read-only or reserved one is ignored and sets no status bit. -/
def Obligations.CsrReadsAndIgnoredWrites : Prop :=
  ∀ (s : State) (a : HAddr) (w : Word), a.toNat < 0x10 →
    (a.toNat ≠ 0 → a.toNat ≠ 1 → a.toNat ≠ 3 →
      s.hostWrite a w = { s with history := s.history ++ [.hostWrite a w .ignored] }) ∧
    ∃ r : Word, s.hostRead a = { s with history := s.history ++ [.hostRead a r false] } ∧
      (a.toNat = 0 ∨ 7 ≤ a.toNat → r = 0#32) ∧
      (a.toNat = 1 →
        r.getLsbD 0 = s.busy ∧ r.getLsbD 1 = s.status.cdone ∧ r.getLsbD 2 = s.status.ovr ∧
        r.getLsbD 3 = s.status.herr ∧
        (∀ row ∈ ([(none, 0#4), (some .busUnavailable, 1#4), (some .ioFailure, 2#4), (some .protocolMismatch, 3#4),
            (some .bufferOverflow, 4#4), (some .illegalCommand, 5#4), (some .illegalState, 6#4),
            (some .malformedEntry, 7#4), (some .listOverrun, 8#4)] : List (Option Err × BitVec 4)),
          s.status.err = row.1 → r.extractLsb' 4 4 = row.2) ∧
        (∀ row ∈ ([(.idle, 0#2), (.capturing, 1#2), (.done, 2#2)] : List (Fst × BitVec 2)),
          s.fst = row.1 → r.extractLsb' 8 2 = row.2) ∧
        (∀ row ∈ ([(.armed, 0#1), (.pressed, 1#1)] : List (Bst × BitVec 1)),
          s.button.bst = row.1 → r.extractLsb' 10 1 = row.2) ∧
        r.getLsbD 11 = s.bus.rbUp ∧ r.getLsbD 12 = s.bus.sbUp ∧
        r.getLsbD 13 = s.bus.cs ∧ r.getLsbD 14 = s.button.dlevel.isSome ∧
        r.getLsbD 15 = s.button.dlevel.getD false ∧ r.getLsbD 16 = s.button.pend ∧ r.extractLsb' 17 15 = 0#15) ∧
      (a.toNat = 2 → r = s.result) ∧
      (a.toNat = 3 →
        r.getLsbD 0 = s.cfg.aw ∧
        (∀ row ∈ ([(.any, 0#2), (.rising, 1#2), (.falling, 2#2)] : List (Edge × BitVec 2)),
          s.cfg.edge = row.1 → r.extractLsb' 1 2 = row.2) ∧
        r.extractLsb' 3 4 = s.cfg.dbn ∧
        r.getLsbD 7 = s.cfg.ie ∧ r.extractLsb' 8 24 = 0#24) ∧
      (a.toNat = 4 → r.toNat = s.bufLen.toNat) ∧
      (a.toNat = 5 → r.toNat = s.params.bufBytes) ∧
      (a.toNat = 6 → r.toNat = s.params.cfgWords)

/-- R72: when BUSY = 0 a host write to a CFGMEM word makes that word read as written and leaves every other word and
BUF as they were; a host read returns the word. When BUSY = 1 a write is dropped and either sets HERR. -/
def Obligations.CfgmemWindow : Prop :=
  ∀ (s : State) (a : HAddr) (w : Word) (i : Nat), a.toNat = 0x10000 + i → i < s.params.cfgWords →
    (s.busy = false →
      (∃ m : Memory, s.hostWrite a w =
        { s with cfgmem := m, history := s.history ++ [.hostWrite a w .performed] }) ∧
      (s.hostWrite a w).cfgWordAt i = w ∧ (∀ j, j ≠ i → (s.hostWrite a w).cfgWordAt j = s.cfgWordAt j) ∧
      s.hostRead a = { s with history := s.history ++ [.hostRead a (s.cfgWordAt i) false] }) ∧
    (s.busy = true →
      s.hostWrite a w =
        { s with
          status := { s.status with herr := true }
          history := s.history ++ [.hostWrite a w .refused] } ∧
      ∃ r k, s.hostRead a =
        { s with
          status := { s.status with herr := true }
          history := s.history ++ [.hostRead a r true]
          world := { s.world with tick := k } })

/-- R73: a host read of the BUF window when BUSY = 0 returns four bytes, the first least significant, 0 beyond BUF_BYTES;
when BUSY = 1 it returns any value and sets HERR; a host write is dropped and sets HERR at all times. -/
def Obligations.BufWindow : Prop :=
  ∀ (s : State) (a : HAddr) (w : Word) (x : Nat), a.toNat = 0x400000 + x → 4 * x < s.params.bufBytes →
    (s.busy = false → ∃ r : Word,
      s.hostRead a = { s with history := s.history ++ [.hostRead a r false] } ∧
      ∀ j < 4, r.extractLsb' (8 * j) 8 = if 4 * x + j < s.params.bufBytes then s.bufByte (4 * x + j) else 0#8) ∧
    (s.busy = true → ∃ r k, s.hostRead a =
      { s with
        status := { s.status with herr := true }
        history := s.history ++ [.hostRead a r true]
        world := { s.world with tick := k } }) ∧
    s.hostWrite a w =
      { s with
        status := { s.status with herr := true }
        history := s.history ++ [.hostWrite a w .refused] }

/-- R74, R71: an access outside the three windows sets HERR: a read returns any value, a write is dropped. -/
def Obligations.UnmappedAccesses : Prop :=
  ∀ (s : State) (a : HAddr) (w : Word), 0x10 ≤ a.toNat →
    ¬ (0x10000 ≤ a.toNat ∧ a.toNat < 0x10000 + s.params.cfgWords) →
    ¬ (0x400000 ≤ a.toNat ∧ 4 * (a.toNat - 0x400000) < s.params.bufBytes) →
    s.hostWrite a w =
      { s with
        status := { s.status with herr := true }
        history := s.history ++ [.hostWrite a w .refused] } ∧
    ∃ r k, s.hostRead a =
      { s with
        status := { s.status with herr := true }
        history := s.history ++ [.hostRead a r true]
        world := { s.world with tick := k } }

/-- R79, R31: a host read records the word it returns and has no side effect but setting HERR. -/
def Obligations.HostReadsOnlySetHerr : Prop :=
  ∀ (s : State) (a : HAddr), ∃ r refused k,
    s.hostRead a =
      { s with
        status := { s.status with herr := s.status.herr || refused }
        history := s.history ++ [.hostRead a r refused]
        world := { s.world with tick := k } }

/-! ## Reset and the whole machine -/

/-- R340, R341: when reset is released every piece of state has its reset value, whatever the state was, a running
command included; the event history and the parameters are kept, and nothing is put on a bus. The values stand from the
assertion on, and releasing a released input does nothing, which is the model's choice (log entry 14). They are those of
the model's start. -/
def Obligations.ResetValues : Prop :=
  ∀ s : State,
    (s.world.inReset = true → (s.driveReset false).world.inReset = false ∧
      State.hasResetValues (s.driveReset false) ∧ (s.driveReset false).params = s.params ∧
      (s.driveReset false).history = s.history) ∧
    ((s.driveReset true).world.inReset = true ∧ State.hasResetValues (s.driveReset true) ∧
      (s.driveReset true).params = s.params ∧ (s.driveReset true).history = s.history) ∧
    (s.world.inReset = false → s.driveReset false = s) ∧
    State.hasResetValues State.reset ∧ State.hasResetValues (State.resetWith s.params)

/-- R12, R79, R270, R340: only the engine's steps put anything on the buses: a turn of another agent, reset included, leaves
the bus trace as it is. Which events the history holds is log entry 11. -/
def Obligations.OnlyTheEngineDrivesTheBuses : Prop :=
  ∀ (s t : State) (turn : Turn) (rest : List Turn), (∀ more, turn ≠ .ce more) → s.world.turns = turn :: rest →
    step s = .next t → busTrace t.history = busTrace s.history

/-- The invariant holds right after reset, for all parameters. -/
def Obligations.ResetMeetsInvariant : Prop :=
  State.reset.Inv ∧ ∀ q : Params, (State.resetWith q).Inv

/-- Every step from a state that meets the invariant gives a next state that meets it: the memories stay canonical and
inside their bounds, BUFLEN inside BUF (R230), ERR and CDONE 0 while a command runs (R33), chip select asserted only
while the serial bus is up (R44), and the machine never stops. -/
def Obligations.StepKeepsInvariant : Prop :=
  ∀ s : State, s.Inv → ∃ t, step s = .next t ∧ t.Inv
end

