-- ==== Sys2Proof/Laws/Encoding.lean ====
section
/-! SUPPORT. The two parts of a command word (30_encoding.md R100), read back from the encoder. -/

namespace Sys2Proof

/-- The lower part of a concatenation. -/
theorem extract_append_low {m n : Nat} (x : BitVec m) (y : BitVec n) : (x ++ y).extractLsb' 0 n = y := by
  apply BitVec.eq_of_getLsbD_eq
  intro k hk
  simp [BitVec.getLsbD_append, hk]

/-- The upper part of a concatenation. -/
theorem extract_append_high {m n : Nat} (x : BitVec m) (y : BitVec n) : (x ++ y).extractLsb' n m = x := by
  apply BitVec.eq_of_getLsbD_eq
  intro k hk
  simp [BitVec.getLsbD_append, hk]

@[simp] theorem opcodeOfWord_encode (i : Instr) : opcodeOfWord (encode i) = opcodeOf i := extract_append_high _ _

@[simp] theorem operandOfWord_encode (i : Instr) : operandOfWord (encode i) = operandOf i := extract_append_low _ _

/-- What the decoder answers, said in terms of the table's row for the opcode. -/
theorem decode_ok_iff (w : Word) (i : Instr) :
    decode w = .ok i ↔
      instrOf (opcodeOfWord w) (operandOfWord w) = some i ∧ i.format.reservedClear (operandOfWord w) = true := by
  unfold decode
  generalize instrOf (opcodeOfWord w) (operandOfWord w) = r
  cases r with
  | none => simp
  | some j => by_cases hr : j.format.reservedClear (operandOfWord w) = true <;> simp [hr] <;> rintro rfl <;> simpa using hr

end Sys2Proof
end

