-- ==== Sys2Proof/Laws/State.lean ====
section
/-! SUPPORT. One lemma for each field of State and each named update of Machine/Ops.lean, HostPort.lean and
Agents.lean: what the field is after the update. -/

namespace Sys2Proof.Machine

variable (s : State)

@[simp] theorem State.record_params (e : Event) : (s.record e).params = s.params := rfl
@[simp] theorem State.record_status (e : Event) : (s.record e).status = s.status := rfl
@[simp] theorem State.record_result (e : Event) : (s.record e).result = s.result := rfl
@[simp] theorem State.record_cfg (e : Event) : (s.record e).cfg = s.cfg := rfl
@[simp] theorem State.record_bufLen (e : Event) : (s.record e).bufLen = s.bufLen := rfl
@[simp] theorem State.record_fst (e : Event) : (s.record e).fst = s.fst := rfl
@[simp] theorem State.record_bus (e : Event) : (s.record e).bus = s.bus := rfl
@[simp] theorem State.record_button (e : Event) : (s.record e).button = s.button := rfl
@[simp] theorem State.record_ce (e : Event) : (s.record e).ce = s.ce := rfl
@[simp] theorem State.record_cfgmem (e : Event) : (s.record e).cfgmem = s.cfgmem := rfl
@[simp] theorem State.record_buf (e : Event) : (s.record e).buf = s.buf := rfl
@[simp] theorem State.record_history (e : Event) : (s.record e).history = s.history ++ [e] := rfl
@[simp] theorem State.record_world (e : Event) : (s.record e).world = s.world := rfl

@[simp] theorem State.driveCs_params (a : Bool) : (s.driveCs a).params = s.params := rfl
@[simp] theorem State.driveCs_status (a : Bool) : (s.driveCs a).status = s.status := rfl
@[simp] theorem State.driveCs_result (a : Bool) : (s.driveCs a).result = s.result := rfl
@[simp] theorem State.driveCs_cfg (a : Bool) : (s.driveCs a).cfg = s.cfg := rfl
@[simp] theorem State.driveCs_bufLen (a : Bool) : (s.driveCs a).bufLen = s.bufLen := rfl
@[simp] theorem State.driveCs_fst (a : Bool) : (s.driveCs a).fst = s.fst := rfl
@[simp] theorem State.driveCs_bus (a : Bool) : (s.driveCs a).bus = { s.bus with cs := a } := rfl
@[simp] theorem State.driveCs_button (a : Bool) : (s.driveCs a).button = s.button := rfl
@[simp] theorem State.driveCs_ce (a : Bool) : (s.driveCs a).ce = s.ce := rfl
@[simp] theorem State.driveCs_cfgmem (a : Bool) : (s.driveCs a).cfgmem = s.cfgmem := rfl
@[simp] theorem State.driveCs_buf (a : Bool) : (s.driveCs a).buf = s.buf := rfl
@[simp] theorem State.driveCs_history (a : Bool) : (s.driveCs a).history = s.history ++ [.sbCs a] := rfl
@[simp] theorem State.driveCs_world (a : Bool) : (s.driveCs a).world = s.world := rfl

@[simp] theorem State.finish_params (err : Option Err) (r : Word) : (s.finish err r).params = s.params := rfl
@[simp] theorem State.finish_status (err : Option Err) (r : Word) :
    (s.finish err r).status = { s.status with cdone := true, err := err } := rfl
@[simp] theorem State.finish_result (err : Option Err) (r : Word) : (s.finish err r).result = r := rfl
@[simp] theorem State.finish_cfg (err : Option Err) (r : Word) : (s.finish err r).cfg = s.cfg := rfl
@[simp] theorem State.finish_bufLen (err : Option Err) (r : Word) : (s.finish err r).bufLen = s.bufLen := rfl
@[simp] theorem State.finish_fst (err : Option Err) (r : Word) : (s.finish err r).fst = s.fst := rfl
@[simp] theorem State.finish_bus (err : Option Err) (r : Word) : (s.finish err r).bus = s.bus := rfl
@[simp] theorem State.finish_button (err : Option Err) (r : Word) : (s.finish err r).button = s.button := rfl
@[simp] theorem State.finish_ce (err : Option Err) (r : Word) : (s.finish err r).ce = none := rfl
@[simp] theorem State.finish_cfgmem (err : Option Err) (r : Word) : (s.finish err r).cfgmem = s.cfgmem := rfl
@[simp] theorem State.finish_buf (err : Option Err) (r : Word) : (s.finish err r).buf = s.buf := rfl
@[simp] theorem State.finish_history (err : Option Err) (r : Word) : (s.finish err r).history = s.history := rfl
@[simp] theorem State.finish_world (err : Option Err) (r : Word) : (s.finish err r).world = s.world := rfl

@[simp] theorem State.finishFree_params (e : Err) : (s.finishFree e).params = s.params := rfl
@[simp] theorem State.finishFree_status (e : Err) :
    (s.finishFree e).status = { s.status with cdone := true, err := some e } := rfl
@[simp] theorem State.finishFree_result (e : Err) : (s.finishFree e).result = s.world.drawWord.1 := rfl
@[simp] theorem State.finishFree_cfg (e : Err) : (s.finishFree e).cfg = s.cfg := rfl
@[simp] theorem State.finishFree_bufLen (e : Err) : (s.finishFree e).bufLen = s.bufLen := rfl
@[simp] theorem State.finishFree_fst (e : Err) : (s.finishFree e).fst = s.fst := rfl
@[simp] theorem State.finishFree_bus (e : Err) : (s.finishFree e).bus = s.bus := rfl
@[simp] theorem State.finishFree_button (e : Err) : (s.finishFree e).button = s.button := rfl
@[simp] theorem State.finishFree_ce (e : Err) : (s.finishFree e).ce = none := rfl
@[simp] theorem State.finishFree_cfgmem (e : Err) : (s.finishFree e).cfgmem = s.cfgmem := rfl
@[simp] theorem State.finishFree_buf (e : Err) : (s.finishFree e).buf = s.buf := rfl
@[simp] theorem State.finishFree_history (e : Err) : (s.finishFree e).history = s.history := rfl
@[simp] theorem State.finishFree_world (e : Err) : (s.finishFree e).world = s.world.drawWord.2 := rfl

@[simp] theorem State.accept_params (w : Word) : (s.accept w).params = s.params := rfl
@[simp] theorem State.accept_status (w : Word) :
    (s.accept w).status = { s.status with cdone := false, err := none } := rfl
@[simp] theorem State.accept_result (w : Word) : (s.accept w).result = s.result := rfl
@[simp] theorem State.accept_cfg (w : Word) : (s.accept w).cfg = s.cfg := rfl
@[simp] theorem State.accept_bufLen (w : Word) : (s.accept w).bufLen = s.bufLen := rfl
@[simp] theorem State.accept_fst (w : Word) : (s.accept w).fst = s.fst := rfl
@[simp] theorem State.accept_bus (w : Word) : (s.accept w).bus = s.bus := rfl
@[simp] theorem State.accept_button (w : Word) : (s.accept w).button = s.button := rfl
@[simp] theorem State.accept_ce (w : Word) : (s.accept w).ce = some (Flight.start w) := rfl
@[simp] theorem State.accept_cfgmem (w : Word) : (s.accept w).cfgmem = s.cfgmem := rfl
@[simp] theorem State.accept_buf (w : Word) : (s.accept w).buf = s.buf := rfl
@[simp] theorem State.accept_history (w : Word) : (s.accept w).history = s.history := rfl
@[simp] theorem State.accept_world (w : Word) : (s.accept w).world = s.world := rfl

@[simp] theorem State.advance_params (f : Flight) : (s.advance f).params = s.params := rfl
@[simp] theorem State.advance_status (f : Flight) : (s.advance f).status = s.status := rfl
@[simp] theorem State.advance_result (f : Flight) : (s.advance f).result = s.result := rfl
@[simp] theorem State.advance_cfg (f : Flight) : (s.advance f).cfg = s.cfg := rfl
@[simp] theorem State.advance_bufLen (f : Flight) : (s.advance f).bufLen = s.bufLen := rfl
@[simp] theorem State.advance_fst (f : Flight) : (s.advance f).fst = s.fst := rfl
@[simp] theorem State.advance_bus (f : Flight) : (s.advance f).bus = s.bus := rfl
@[simp] theorem State.advance_button (f : Flight) : (s.advance f).button = s.button := rfl
@[simp] theorem State.advance_ce (f : Flight) : (s.advance f).ce = some { f with pos := f.pos + 1 } := rfl
@[simp] theorem State.advance_cfgmem (f : Flight) : (s.advance f).cfgmem = s.cfgmem := rfl
@[simp] theorem State.advance_buf (f : Flight) : (s.advance f).buf = s.buf := rfl
@[simp] theorem State.advance_history (f : Flight) : (s.advance f).history = s.history := rfl
@[simp] theorem State.advance_world (f : Flight) : (s.advance f).world = s.world := rfl

@[simp] theorem State.goto_params (f : Flight) (pos : Nat) : (s.goto f pos).params = s.params := rfl
@[simp] theorem State.goto_status (f : Flight) (pos : Nat) : (s.goto f pos).status = s.status := rfl
@[simp] theorem State.goto_result (f : Flight) (pos : Nat) : (s.goto f pos).result = s.result := rfl
@[simp] theorem State.goto_cfg (f : Flight) (pos : Nat) : (s.goto f pos).cfg = s.cfg := rfl
@[simp] theorem State.goto_bufLen (f : Flight) (pos : Nat) : (s.goto f pos).bufLen = s.bufLen := rfl
@[simp] theorem State.goto_fst (f : Flight) (pos : Nat) : (s.goto f pos).fst = s.fst := rfl
@[simp] theorem State.goto_bus (f : Flight) (pos : Nat) : (s.goto f pos).bus = s.bus := rfl
@[simp] theorem State.goto_button (f : Flight) (pos : Nat) : (s.goto f pos).button = s.button := rfl
@[simp] theorem State.goto_ce (f : Flight) (pos : Nat) : (s.goto f pos).ce = some { f with pos := pos } := rfl
@[simp] theorem State.goto_cfgmem (f : Flight) (pos : Nat) : (s.goto f pos).cfgmem = s.cfgmem := rfl
@[simp] theorem State.goto_buf (f : Flight) (pos : Nat) : (s.goto f pos).buf = s.buf := rfl
@[simp] theorem State.goto_history (f : Flight) (pos : Nat) : (s.goto f pos).history = s.history := rfl
@[simp] theorem State.goto_world (f : Flight) (pos : Nat) : (s.goto f pos).world = s.world := rfl

@[simp] theorem State.fail_params (p : Prog) (f : Flight) (e : Err) : (s.fail p f e).params = s.params := rfl
@[simp] theorem State.fail_status (p : Prog) (f : Flight) (e : Err) : (s.fail p f e).status = s.status := rfl
@[simp] theorem State.fail_result (p : Prog) (f : Flight) (e : Err) : (s.fail p f e).result = s.result := rfl
@[simp] theorem State.fail_cfg (p : Prog) (f : Flight) (e : Err) : (s.fail p f e).cfg = s.cfg := rfl
@[simp] theorem State.fail_bufLen (p : Prog) (f : Flight) (e : Err) : (s.fail p f e).bufLen = s.bufLen := rfl
@[simp] theorem State.fail_fst (p : Prog) (f : Flight) (e : Err) : (s.fail p f e).fst = s.fst := rfl
@[simp] theorem State.fail_bus (p : Prog) (f : Flight) (e : Err) : (s.fail p f e).bus = s.bus := rfl
@[simp] theorem State.fail_button (p : Prog) (f : Flight) (e : Err) : (s.fail p f e).button = s.button := rfl
@[simp] theorem State.fail_ce (p : Prog) (f : Flight) (e : Err) :
    (s.fail p f e).ce = some { f with pos := p.main.length, outcome := some e } := rfl
@[simp] theorem State.fail_cfgmem (p : Prog) (f : Flight) (e : Err) : (s.fail p f e).cfgmem = s.cfgmem := rfl
@[simp] theorem State.fail_buf (p : Prog) (f : Flight) (e : Err) : (s.fail p f e).buf = s.buf := rfl
@[simp] theorem State.fail_history (p : Prog) (f : Flight) (e : Err) : (s.fail p f e).history = s.history := rfl
@[simp] theorem State.fail_world (p : Prog) (f : Flight) (e : Err) : (s.fail p f e).world = s.world := rfl

@[simp] theorem State.answered_params : (s.answered).params = s.params := rfl
@[simp] theorem State.answered_status : (s.answered).status = s.status := rfl
@[simp] theorem State.answered_result : (s.answered).result = s.result := rfl
@[simp] theorem State.answered_cfg : (s.answered).cfg = s.cfg := rfl
@[simp] theorem State.answered_bufLen : (s.answered).bufLen = s.bufLen := rfl
@[simp] theorem State.answered_fst : (s.answered).fst = s.fst := rfl
@[simp] theorem State.answered_bus : (s.answered).bus = s.bus := rfl
@[simp] theorem State.answered_button : (s.answered).button = s.button := rfl
@[simp] theorem State.answered_ce : (s.answered).ce = s.ce := rfl
@[simp] theorem State.answered_cfgmem : (s.answered).cfgmem = s.cfgmem := rfl
@[simp] theorem State.answered_buf : (s.answered).buf = s.buf := rfl
@[simp] theorem State.answered_history : (s.answered).history = s.history := rfl
@[simp] theorem State.answered_world : (s.answered).world = s.world.drawAnswer.2 := rfl

@[simp] theorem State.dropTurn_params : (s.dropTurn).params = s.params := rfl
@[simp] theorem State.dropTurn_status : (s.dropTurn).status = s.status := rfl
@[simp] theorem State.dropTurn_result : (s.dropTurn).result = s.result := rfl
@[simp] theorem State.dropTurn_cfg : (s.dropTurn).cfg = s.cfg := rfl
@[simp] theorem State.dropTurn_bufLen : (s.dropTurn).bufLen = s.bufLen := rfl
@[simp] theorem State.dropTurn_fst : (s.dropTurn).fst = s.fst := rfl
@[simp] theorem State.dropTurn_bus : (s.dropTurn).bus = s.bus := rfl
@[simp] theorem State.dropTurn_button : (s.dropTurn).button = s.button := rfl
@[simp] theorem State.dropTurn_ce : (s.dropTurn).ce = s.ce := rfl
@[simp] theorem State.dropTurn_cfgmem : (s.dropTurn).cfgmem = s.cfgmem := rfl
@[simp] theorem State.dropTurn_buf : (s.dropTurn).buf = s.buf := rfl
@[simp] theorem State.dropTurn_history : (s.dropTurn).history = s.history := rfl
@[simp] theorem State.dropTurn_world : (s.dropTurn).world = s.world.dropTurn := rfl

@[simp] theorem State.setHerr_params : (s.setHerr).params = s.params := rfl
@[simp] theorem State.setHerr_status : (s.setHerr).status = { s.status with herr := true } := rfl
@[simp] theorem State.setHerr_result : (s.setHerr).result = s.result := rfl
@[simp] theorem State.setHerr_cfg : (s.setHerr).cfg = s.cfg := rfl
@[simp] theorem State.setHerr_bufLen : (s.setHerr).bufLen = s.bufLen := rfl
@[simp] theorem State.setHerr_fst : (s.setHerr).fst = s.fst := rfl
@[simp] theorem State.setHerr_bus : (s.setHerr).bus = s.bus := rfl
@[simp] theorem State.setHerr_button : (s.setHerr).button = s.button := rfl
@[simp] theorem State.setHerr_ce : (s.setHerr).ce = s.ce := rfl
@[simp] theorem State.setHerr_cfgmem : (s.setHerr).cfgmem = s.cfgmem := rfl
@[simp] theorem State.setHerr_buf : (s.setHerr).buf = s.buf := rfl
@[simp] theorem State.setHerr_history : (s.setHerr).history = s.history := rfl
@[simp] theorem State.setHerr_world : (s.setHerr).world = s.world := rfl

@[simp] theorem State.setOvr_params : (s.setOvr).params = s.params := rfl
@[simp] theorem State.setOvr_status : (s.setOvr).status = { s.status with ovr := true } := rfl
@[simp] theorem State.setOvr_result : (s.setOvr).result = s.result := rfl
@[simp] theorem State.setOvr_cfg : (s.setOvr).cfg = s.cfg := rfl
@[simp] theorem State.setOvr_bufLen : (s.setOvr).bufLen = s.bufLen := rfl
@[simp] theorem State.setOvr_fst : (s.setOvr).fst = s.fst := rfl
@[simp] theorem State.setOvr_bus : (s.setOvr).bus = s.bus := rfl
@[simp] theorem State.setOvr_button : (s.setOvr).button = s.button := rfl
@[simp] theorem State.setOvr_ce : (s.setOvr).ce = s.ce := rfl
@[simp] theorem State.setOvr_cfgmem : (s.setOvr).cfgmem = s.cfgmem := rfl
@[simp] theorem State.setOvr_buf : (s.setOvr).buf = s.buf := rfl
@[simp] theorem State.setOvr_history : (s.setOvr).history = s.history := rfl
@[simp] theorem State.setOvr_world : (s.setOvr).world = s.world := rfl

end Sys2Proof.Machine
end

