-- ==== Sys2Proof/Laws/Engine.lean ====
section
/-! SUPPORT. The engine of Machine/Ops.lean: what a turn of the command engine is, how its atomic steps compose, and
what one operation can change, said once for every operation. -/

namespace Sys2Proof.Machine

/-- Every command's meaning runs its pseudocode. -/
theorem exec_eq_runCommand (i : Instr) (s : State) : exec i s = runCommand (progOf s.params i) s := by
  cases i <;> rfl

/-- What a command's meaning answers: a fault outside the pseudocode, else the engine's steps of the turn. -/
theorem runCommand_next {p : Prog} {s t : State} (h : runCommand p s = .next t) :
    ∃ f, s.ce = some f ∧ f.pos < p.code.length ∧
      t = ceSteps p (s.world.moreSteps + 1) { s with world := s.world.dropTurn } := by
  unfold runCommand at h
  split at h
  · cases h
  · rename_i f hf
    split at h
    · rename_i hp
      cases h
      exact ⟨f, hf, hp, rfl⟩
    · cases h

/-- A command in flight inside its pseudocode runs. -/
theorem runCommand_of_ce {p : Prog} {s : State} {f : Flight} (hf : s.ce = some f) (hp : f.pos < p.code.length) :
    runCommand p s = .next (ceSteps p (s.world.moreSteps + 1) { s with world := s.world.dropTurn }) := by
  simp [runCommand, hf, hp]

/-- The engine's steps that do not see each other's count. -/
theorem ceSteps_add (p : Prog) (m n : Nat) (s : State) : ceSteps p (m + n) s = ceSteps p n (ceSteps p m s) := by
  induction m generalizing s with
  | zero => simp [ceSteps]
  | succ m ih => rw [Nat.succ_add]; simp only [ceSteps]; exact ih _

/-- After completion the engine makes no step. -/
theorem ceStep_idle (p : Prog) {s : State} (h : s.ce = none) : ceStep p s = s := by
  simp [ceStep, h]

theorem ceSteps_idle (p : Prog) (n : Nat) {s : State} (h : s.ce = none) : ceSteps p n s = s := by
  induction n with
  | zero => rfl
  | succ n ih => simp only [ceSteps, ceStep_idle p h, ih]

/-- One step of the engine is the operation at the position. -/
theorem ceStep_of_op {p : Prog} {s : State} {f : Flight} {op : Op} (hf : s.ce = some f)
    (hop : p.code[f.pos]? = some op) : ceStep p s = runOp p f s op := by
  simp [ceStep, hf, hop]

/-- A property that every operation of the pseudocode keeps is kept by the engine's steps. -/
theorem ceSteps_induct {p : Prog} {Q : State → Prop}
    (hstep : ∀ s f op, Q s → s.ce = some f → p.code[f.pos]? = some op → Q (runOp p f s op)) :
    ∀ (n : Nat) (s : State), Q s → Q (ceSteps p n s) := by
  intro n
  induction n with
  | zero => intro s h; exact h
  | succ n ih =>
    intro s h
    refine ih _ ?_
    unfold ceStep
    split
    · exact h
    · rename_i f hf
      split
      · exact h
      · rename_i op hop
        exact hstep s f op h hf hop

/-- What `raise` does to each field it can touch. -/
theorem State.raise_frame (s : State) (p : Prog) (f : Flight) (e : Err) :
    (s.raise p f e).params = s.params ∧ (s.raise p f e).cfg = s.cfg ∧ (s.raise p f e).bufLen = s.bufLen ∧
    (s.raise p f e).fst = s.fst ∧ (s.raise p f e).bus = s.bus ∧ (s.raise p f e).button = s.button ∧
    (s.raise p f e).ce = none ∧ (s.raise p f e).cfgmem = s.cfgmem ∧ (s.raise p f e).buf = s.buf ∧
    (s.raise p f e).history = s.history ∧
    (s.raise p f e).status = { s.status with cdone := true, err := some e } := by
  unfold State.raise
  split <;> simp

/-- Where a primitive goes on: it changes only the position and the locals in flight. -/
theorem State.settle_cases (s : State) (p : Prog) (f : Flight) (err : Option Err) (f' : Flight) :
    (err = none ∧ s.settle p f err f' = s.advance f') ∨ (∃ e, err = some e ∧ s.settle p f err f' = s.fail p f e) := by
  cases err with
  | none => exact Or.inl ⟨rfl, rfl⟩
  | some e => exact Or.inr ⟨e, rfl, rfl⟩

/-- The fields that no operation changes. -/
theorem runOp_const_frame (p : Prog) (f : Flight) (s : State) (op : Op) :
    (runOp p f s op).params = s.params ∧ (runOp p f s op).cfg = s.cfg ∧
    (runOp p f s op).world.inReset = s.world.inReset ∧ (runOp p f s op).world.turns = s.world.turns ∧
    (runOp p f s op).world.epoch = s.world.epoch := by
  have hd : s.world.drawAnswer.2.inReset = s.world.inReset ∧ s.world.drawAnswer.2.turns = s.world.turns ∧
      s.world.drawAnswer.2.epoch = s.world.epoch := by
    unfold World.drawAnswer; split <;> simp
  have hr : ∀ e, (s.raise p f e).params = s.params ∧ (s.raise p f e).cfg = s.cfg ∧
      (s.raise p f e).world.inReset = s.world.inReset ∧ (s.raise p f e).world.turns = s.world.turns ∧
      (s.raise p f e).world.epoch = s.world.epoch := by
    intro e; unfold State.raise; split <;> simp [World.drawWord]
  cases op <;>
    simp only [runOp, State.rbWriteFrame, State.rbReadFrame, State.sbTransfer, State.openBus, State.ceWriteCfg,
      State.ceWriteBuf, State.ceReadCfg, State.takeEdge, State.settle] <;>
    (repeat' split) <;> simp_all

/-- One operation ends the command or leaves it in flight with the same word. -/
theorem runOp_ce_frame (p : Prog) {f : Flight} {s : State} (hf : s.ce = some f) (op : Op) :
    (runOp p f s op).ce = none ∨ ∃ g, (runOp p f s op).ce = some g ∧ g.word = f.word := by
  have hk : ∀ b slot, (f.keep b slot).word = f.word := by intro b slot; cases slot <;> rfl
  cases op <;>
    simp only [runOp, State.rbWriteFrame, State.rbReadFrame, State.sbTransfer, State.openBus, State.ceWriteCfg,
      State.ceWriteBuf, State.ceReadCfg, State.takeEdge, State.settle] <;>
    (repeat' split) <;> simp_all [(s.raise_frame p f _).2.2.2.2.2.2.1]

/-- While the command stays in flight RESULT and STATUS keep their values; when it ends CDONE is 1. -/
theorem runOp_completion_frame (p : Prog) {f : Flight} {s : State} (hf : s.ce = some f) (op : Op) :
    ((runOp p f s op).ce ≠ none → (runOp p f s op).result = s.result ∧ (runOp p f s op).status = s.status) ∧
    ((runOp p f s op).ce = none → (runOp p f s op).status.cdone = true) := by
  have hr : ∀ e, (s.raise p f e).ce = none ∧ (s.raise p f e).status.cdone = true := by
    intro e; unfold State.raise; split <;> simp
  cases op <;>
    simp only [runOp, State.rbWriteFrame, State.rbReadFrame, State.sbTransfer, State.openBus, State.ceWriteCfg,
      State.ceWriteBuf, State.ceReadCfg, State.takeEdge, State.settle] <;>
    (repeat' split) <;> simp_all

/-- Only the write-back writes CFGMEM. -/
theorem runOp_cfgmem_frame (p : Prog) (f : Flight) (s : State) (op : Op) (h : op ≠ .writeBack) :
    (runOp p f s op).cfgmem = s.cfgmem := by
  have hr : ∀ e, (s.raise p f e).cfgmem = s.cfgmem := fun e => (s.raise_frame p f e).2.2.2.2.2.2.2.1
  cases op <;>
    simp only [runOp, State.rbWriteFrame, State.rbReadFrame, State.sbTransfer, State.openBus, State.ceWriteCfg,
      State.ceWriteBuf, State.ceReadCfg, State.takeEdge, State.settle] <;>
    (repeat' split) <;> simp_all

/-- Only the store of a byte writes BUF. -/
theorem runOp_buf_frame (p : Prog) (f : Flight) (s : State) (op : Op) (h : op ≠ .storeByte) :
    (runOp p f s op).buf = s.buf := by
  have hr : ∀ e, (s.raise p f e).buf = s.buf := fun e => (s.raise_frame p f e).2.2.2.2.2.2.2.2.1
  cases op <;>
    simp only [runOp, State.rbWriteFrame, State.rbReadFrame, State.sbTransfer, State.openBus, State.ceWriteCfg,
      State.ceWriteBuf, State.ceReadCfg, State.takeEdge, State.settle] <;>
    (repeat' split) <;> simp_all

/-- Only the ends of a burst frame write BUFLEN. -/
theorem runOp_bufLen_frame (p : Prog) (f : Flight) (s : State) (op : Op) (h1 : op ≠ .startBuffer) (h2 : op ≠ .setBufLen) :
    (runOp p f s op).bufLen = s.bufLen := by
  have hr : ∀ e, (s.raise p f e).bufLen = s.bufLen := fun e => (s.raise_frame p f e).2.2.1
  cases op <;>
    simp only [runOp, State.rbWriteFrame, State.rbReadFrame, State.sbTransfer, State.openBus, State.ceWriteCfg,
      State.ceWriteBuf, State.ceReadCfg, State.takeEdge, State.settle] <;>
    (repeat' split) <;> simp_all

/-- Only the assignment to FST writes it. -/
theorem runOp_fst_frame (p : Prog) (f : Flight) (s : State) (op : Op) (h : ∀ x, op ≠ .setFst x) :
    (runOp p f s op).fst = s.fst := by
  have hr : ∀ e, (s.raise p f e).fst = s.fst := fun e => (s.raise_frame p f e).2.2.2.1
  cases op <;>
    simp only [runOp, State.rbWriteFrame, State.rbReadFrame, State.sbTransfer, State.openBus, State.ceWriteCfg,
      State.ceWriteBuf, State.ceReadCfg, State.takeEdge, State.settle] <;>
    (repeat' split) <;> simp_all

/-- Only the assignments to RBUP and SBUP write them. -/
theorem runOp_up_frame (p : Prog) (f : Flight) (s : State) (op : Op) (h : ∀ b v, op ≠ .setUp b v) (b : Bus) :
    (runOp p f s op).bus.up b = s.bus.up b := by
  have hr : ∀ e, (s.raise p f e).bus = s.bus := fun e => (s.raise_frame p f e).2.2.2.2.1
  cases op <;>
    simp only [runOp, State.rbWriteFrame, State.rbReadFrame, State.sbTransfer, State.openBus, State.ceWriteCfg,
      State.ceWriteBuf, State.ceReadCfg, State.takeEdge, State.settle] <;>
    (repeat' split) <;> cases b <;> simp_all [BusState.up]

/-- Taking a bus up or down leaves chip select. -/
@[simp] theorem BusState.setUp_cs (b : BusState) (w : Bus) (v : Bool) : (b.setUp w v).cs = b.cs := by
  cases w <;> rfl

/-- Only the drives of chip select write CS. -/
theorem runOp_cs_frame (p : Prog) (f : Flight) (s : State) (op : Op) (h1 : ∀ a, op ≠ .cs a) (h2 : op ≠ .csRelease) :
    (runOp p f s op).bus.cs = s.bus.cs := by
  have hr : ∀ e, (s.raise p f e).bus = s.bus := fun e => (s.raise_frame p f e).2.2.2.2.1
  cases op <;>
    simp only [runOp, State.rbWriteFrame, State.rbReadFrame, State.sbTransfer, State.openBus, State.ceWriteCfg,
      State.ceWriteBuf, State.ceReadCfg, State.takeEdge, State.settle] <;>
    (repeat' split) <;> simp_all

/-- Only arming and taking the edge write the button state, and only PEND and BST of it. -/
theorem runOp_button_frame (p : Prog) (f : Flight) (s : State) (op : Op) (h1 : op ≠ .arm) (h2 : op ≠ .awaitEdge) :
    (runOp p f s op).button = s.button := by
  have hr : ∀ e, (s.raise p f e).button = s.button := fun e => (s.raise_frame p f e).2.2.2.2.2.1
  cases op <;>
    simp only [runOp, State.rbWriteFrame, State.rbReadFrame, State.sbTransfer, State.openBus, State.ceWriteCfg,
      State.ceWriteBuf, State.ceReadCfg, State.takeEdge, State.settle] <;>
    (repeat' split) <;> simp_all

/-- One operation only adds events. -/
theorem runOp_history_frame (p : Prog) (f : Flight) (s : State) (op : Op) : s.history <+: (runOp p f s op).history := by
  have hr : ∀ e, (s.raise p f e).history = s.history := fun e => (s.raise_frame p f e).2.2.2.2.2.2.2.2.2.1
  cases op <;>
    simp only [runOp, State.rbWriteFrame, State.rbReadFrame, State.sbTransfer, State.openBus, State.ceWriteCfg,
      State.ceWriteBuf, State.ceReadCfg, State.takeEdge, State.settle] <;>
    (repeat' split) <;> simp_all

end Sys2Proof.Machine
end

