-- ==== Sys2Proof/Laws/HostPort.lean ====
section
/-! SUPPORT. The address map (20_memory.md R71) region by region, and what a host access leaves alone. -/

namespace Sys2Proof.Machine

theorem regionOf_csr (p : Params) {a : HAddr} (h : a.toNat < 0x10) : regionOf p a = .csr a.toNat := by
  simp only [regionOf]
  rw [if_pos h]

theorem regionOf_cfgmem (p : Params) {a : HAddr} {i : Nat} (h : a.toNat = 0x10000 + i) (hi : i < p.cfgWords) :
    regionOf p a = .cfgmem i := by
  simp only [regionOf]
  rw [if_neg (by omega), if_pos (by omega), show a.toNat - 0x10000 = i by omega]

theorem regionOf_bufWindow (p : Params) {a : HAddr} {w : Nat} (h : a.toNat = 0x400000 + w) (hw : w < p.bufWords) :
    regionOf p a = .bufWindow w := by
  have hc : p.cfgWords ≤ 65536 := by have := p.cfgLast.isLt; simp only [Params.cfgWords]; omega
  simp only [regionOf]
  rw [if_neg (by omega), if_neg (by omega), if_pos (by omega), show a.toNat - 0x400000 = w by omega]

theorem regionOf_unmapped (p : Params) {a : HAddr} (h1 : 0x10 ≤ a.toNat)
    (h2 : ¬ (0x10000 ≤ a.toNat ∧ a.toNat < 0x10000 + p.cfgWords))
    (h3 : ¬ (0x400000 ≤ a.toNat ∧ a.toNat < 0x400000 + p.bufWords)) : regionOf p a = .unmapped := by
  simp only [regionOf]
  rw [if_neg (by omega), if_neg h2, if_neg h3]

/-- A word of the BUF window starts below BUF_BYTES, and the other way round. -/
theorem Params.lt_bufWords (p : Params) (w : Nat) : w < p.bufWords ↔ 4 * w < p.bufBytes := by
  unfold Params.bufWords
  omega

/-- What a host read leaves alone: everything but STATUS, the history and the world. -/
theorem State.hostRead_frame (s : State) (a : HAddr) :
    (s.hostRead a).params = s.params ∧ (s.hostRead a).result = s.result ∧ (s.hostRead a).cfg = s.cfg ∧
    (s.hostRead a).bufLen = s.bufLen ∧ (s.hostRead a).fst = s.fst ∧ (s.hostRead a).bus = s.bus ∧
    (s.hostRead a).button = s.button ∧ (s.hostRead a).ce = s.ce ∧ (s.hostRead a).cfgmem = s.cfgmem ∧
    (s.hostRead a).buf = s.buf := by
  unfold State.hostRead State.readDone State.readRefused
  (repeat' split) <;> simp

/-- What a host write leaves alone: no host write touches RESULT, BUFLEN, FST, the buses, the button, BUF or the
world. -/
theorem State.hostWrite_frame (s : State) (a : HAddr) (w : Word) :
    (s.hostWrite a w).params = s.params ∧ (s.hostWrite a w).result = s.result ∧
    (s.hostWrite a w).bufLen = s.bufLen ∧ (s.hostWrite a w).fst = s.fst ∧ (s.hostWrite a w).bus = s.bus ∧
    (s.hostWrite a w).button = s.button ∧ (s.hostWrite a w).buf = s.buf ∧ (s.hostWrite a w).world = s.world := by
  unfold State.hostWrite State.writeCsr State.writeCmd State.writeStatus State.writeCfg State.writeRefused
  (repeat' split) <;> simp

end Sys2Proof.Machine
end

