-- ==== Sys2Proof/Laws/Memory.lean ====
section
/-! SUPPORT. The laws of a memory (Machine/Ops.lean): a read after a write, the canonical form, the bound on addresses,
and the words built from bytes. -/

namespace Sys2Proof.Machine

@[simp] theorem Memory.get?_nil (a : Nat) : Memory.get? [] a = none := rfl

@[simp] theorem Memory.get?_set_same (m : Memory) (a : Nat) (b : Byte) : Memory.get? (Memory.set m a b) a = some b := by
  induction m with
  | nil => simp [Memory.set, Memory.get?]
  | cons c rest ih =>
    obtain ⟨x, y⟩ := c
    unfold Memory.set
    split
    · simp [Memory.get?]
    · split
      · simp [Memory.get?]
      · rename_i h1 h2
        simp [Memory.get?, ih, Ne.symm h2]

theorem Memory.get?_set_other (m : Memory) (a a' : Nat) (b : Byte) (h : a' ≠ a) :
    Memory.get? (Memory.set m a b) a' = Memory.get? m a' := by
  induction m with
  | nil => simp [Memory.set, Memory.get?, h.symm]
  | cons c rest ih =>
    obtain ⟨x, y⟩ := c
    unfold Memory.set
    split
    · simp [Memory.get?, h.symm]
    · split
      · rename_i h1 h2
        subst h2
        simp [Memory.get?, h.symm]
      · simp [Memory.get?, ih]

/-- Every address of a written memory is the written one or was listed before. -/
theorem Memory.mem_set {m : Memory} {a : Nat} {b : Byte} {c : Host.Cell} (h : c ∈ Memory.set m a b) :
    c.1 = a ∨ c ∈ m := by
  induction m with
  | nil => simp [Memory.set] at h; simp [h]
  | cons d rest ih =>
    obtain ⟨x, y⟩ := d
    unfold Memory.set at h
    split at h
    · simp at h; rcases h with rfl | rfl | h <;> simp_all
    · split at h
      · simp at h; rcases h with rfl | h <;> simp_all
      · simp at h
        rcases h with rfl | h
        · simp
        · rcases ih h with h | h <;> simp_all

/-- A write keeps the canonical form. -/
theorem Memory.wf_set {m : Memory} (h : Memory.wf m) (a : Nat) (b : Byte) : Memory.wf (Memory.set m a b) := by
  induction m with
  | nil => simp [Memory.set, Memory.wf]
  | cons c rest ih =>
    obtain ⟨x, y⟩ := c
    have hx := List.pairwise_cons.1 h
    unfold Memory.set
    split
    · rename_i hlt
      refine List.pairwise_cons.2 ⟨fun d hd => ?_, h⟩
      rcases List.mem_cons.1 hd with rfl | hd
      · exact hlt
      · exact Nat.lt_trans hlt (hx.1 d hd)
    · split
      · rename_i hnlt heq
        subst heq
        exact List.pairwise_cons.2 ⟨hx.1, hx.2⟩
      · rename_i hnlt hne
        refine List.pairwise_cons.2 ⟨fun d hd => ?_, ih hx.2⟩
        rcases Memory.mem_set hd with hd | hd
        · simp only [hd]; omega
        · exact hx.1 d hd

/-- A write keeps the addresses below a bound. -/
theorem Memory.bound_set {m : Memory} {n : Nat} (h : ∀ c ∈ m, c.1 < n) {a : Nat} (ha : a < n) (b : Byte) :
    ∀ c ∈ Memory.set m a b, c.1 < n := by
  intro c hc
  rcases Memory.mem_set hc with hc | hc
  · omega
  · exact h c hc

theorem Memory.wf_setWord {m : Memory} (h : Memory.wf m) (i : Nat) (w : Word) : Memory.wf (Memory.setWord m i w) :=
  Memory.wf_set (Memory.wf_set (Memory.wf_set (Memory.wf_set h _ _) _ _) _ _) _ _

theorem Memory.bound_setWord {m : Memory} {n : Nat} (h : ∀ c ∈ m, c.1 < 4 * n) {i : Nat} (hi : i < n) (w : Word) :
    ∀ c ∈ Memory.setWord m i w, c.1 < 4 * n :=
  Memory.bound_set (Memory.bound_set (Memory.bound_set (Memory.bound_set h (by omega) _) (by omega) _) (by omega) _)
    (by omega) _

/-- A word write leaves the bytes of other words alone. -/
theorem Memory.get?_setWord_other (m : Memory) (i : Nat) (w : Word) (a : Nat) (h : a < 4 * i ∨ 4 * i + 4 ≤ a) :
    Memory.get? (Memory.setWord m i w) a = Memory.get? m a := by
  unfold Memory.setWord
  rw [Memory.get?_set_other _ _ _ _ (by omega), Memory.get?_set_other _ _ _ _ (by omega),
    Memory.get?_set_other _ _ _ _ (by omega), Memory.get?_set_other _ _ _ _ (by omega)]

/-- The bytes of a written word. -/
theorem Memory.get?_setWord_same (m : Memory) (i : Nat) (w : Word) :
    Memory.get? (Memory.setWord m i w) (4 * i) = some (w.extractLsb' 0 8) ∧
    Memory.get? (Memory.setWord m i w) (4 * i + 1) = some (w.extractLsb' 8 8) ∧
    Memory.get? (Memory.setWord m i w) (4 * i + 2) = some (w.extractLsb' 16 8) ∧
    Memory.get? (Memory.setWord m i w) (4 * i + 3) = some (w.extractLsb' 24 8) := by
  unfold Memory.setWord
  refine ⟨?_, ?_, ?_, Memory.get?_set_same _ _ _⟩
  · rw [Memory.get?_set_other _ _ _ _ (by omega), Memory.get?_set_other _ _ _ _ (by omega),
      Memory.get?_set_other _ _ _ _ (by omega), Memory.get?_set_same]
  · rw [Memory.get?_set_other _ _ _ _ (by omega), Memory.get?_set_other _ _ _ _ (by omega), Memory.get?_set_same]
  · rw [Memory.get?_set_other _ _ _ _ (by omega), Memory.get?_set_same]

/-- A word is its four bytes. -/
theorem wordOfBytes_extract (w : Word) :
    wordOfBytes (w.extractLsb' 0 8) (w.extractLsb' 8 8) (w.extractLsb' 16 8) (w.extractLsb' 24 8) = w := by
  unfold wordOfBytes
  apply BitVec.eq_of_getLsbD_eq
  intro k hk
  simp only [BitVec.getLsbD_append, BitVec.getLsbD_extractLsb']
  by_cases h1 : k < 8
  · simp [h1]
  · by_cases h2 : k < 16
    · simp [h1, show k - 8 < 8 by omega, show 8 + (k - 8) = k by omega]
    · by_cases h3 : k < 24
      · simp [h1, show ¬ k - 8 < 8 by omega, show k - 8 - 8 < 8 by omega, show 16 + (k - 8 - 8) = k by omega]
      · simp [h1, show ¬ k - 8 < 8 by omega, show ¬ k - 8 - 8 < 8 by omega, show k - 8 - 8 - 8 < 8 by omega,
          show 24 + (k - 8 - 8 - 8) = k by omega]

/-- `MemRead(CFG, i)` after writing word `i`. -/
theorem State.cfgWordAt_setWord_same (s : State) (i : Nat) (w : Word) :
    ({ s with cfgmem := Memory.setWord s.cfgmem i w } : State).cfgWordAt i = w := by
  obtain ⟨h0, h1, h2, h3⟩ := Memory.get?_setWord_same s.cfgmem i w
  simp [State.cfgWordAt, State.cfgByte, h0, h1, h2, h3, wordOfBytes_extract]

/-- `MemRead(CFG, j)` after writing another word. -/
theorem State.cfgWordAt_setWord_other (s : State) (i j : Nat) (w : Word) (h : j ≠ i) :
    ({ s with cfgmem := Memory.setWord s.cfgmem i w } : State).cfgWordAt j = s.cfgWordAt j := by
  have hb : ∀ k, k < 4 → Memory.get? (Memory.setWord s.cfgmem i w) (4 * j + k) = Memory.get? s.cfgmem (4 * j + k) :=
    fun k hk => Memory.get?_setWord_other _ _ _ _ (by omega)
  have h0 := hb 0 (by omega)
  have h1 := hb 1 (by omega)
  have h2 := hb 2 (by omega)
  have h3 := hb 3 (by omega)
  simp only [Nat.add_zero] at h0
  simp only [State.cfgWordAt, State.cfgByte, h0, h1, h2, h3]

end Sys2Proof.Machine
end

