-- ==== Sys2Proof/Laws/PerInstr.lean ====
section
/-! SUPPORT. For every command: its word has the fixed bits of its row of spec/opcode_table.json (30_encoding.md R103),
whatever its operands are. -/

namespace Sys2Proof.Laws.InTableRow

open Sys2Proof

/-- The mask of the fixed bits and their value in the command's row of spec/opcode_table.json. -/
def row : Instr → Word × Word
  | .nop => (0xFFFFFFFF#32, 0x00000000#32)
  | .busOpen _ => (0xFFFFFFFC#32, 0x01000000#32)
  | .busClose _ => (0xFFFFFFFC#32, 0x02000000#32)
  | .rbWrite _ _ => (0xFF000000#32, 0x10000000#32)
  | .rbRead _ => (0xFF0000FF#32, 0x11000000#32)
  | .sbXferByte _ => (0xFFFFFF00#32, 0x18000000#32)
  | .sbXferWord _ => (0xFFFF0000#32, 0x19000000#32)
  | .sbCs _ => (0xFFFFFFFE#32, 0x1A000000#32)
  | .cfgApply _ => (0xFFFF0000#32, 0x20000000#32)
  | .cfgRead _ => (0xFFFF0000#32, 0x21000000#32)
  | .fccSelfTest _ => (0xFFFF0000#32, 0x30000000#32)
  | .fccFlush => (0xFFFFFFFF#32, 0x31000000#32)
  | .fccTrigger => (0xFFFFFFFF#32, 0x32000000#32)
  | .fccPollDone => (0xFFFFFFFF#32, 0x33000000#32)
  | .fccReadLen => (0xFFFFFFFF#32, 0x34000000#32)
  | .fccBurstRead _ => (0xFF000000#32, 0x35000000#32)
  | .fccSingleCapture _ => (0xFF000000#32, 0x36000000#32)
  | .fccWriteReg _ _ => (0xFFFF0000#32, 0x38000000#32)
  | .fccReadReg _ => (0xFFFF00FF#32, 0x39000000#32)
  | .fccSetBit _ _ => (0xFFFF0000#32, 0x3A000000#32)
  | .fccClrBit _ _ => (0xFFFF0000#32, 0x3B000000#32)
  | .fccGetBit _ _ => (0xFFFF0000#32, 0x3C000000#32)
  | .btnArmWait => (0xFFFFFFFF#32, 0x40000000#32)

/-- The command's word has the fixed bits of its row. -/
def Statement (i : Instr) : Prop := encode i &&& (row i).1 = (row i).2

/-- A conjunction of two concatenations is taken part by part. -/
theorem append_and {m n : Nat} (x1 x2 : BitVec m) (y1 y2 : BitVec n) :
    (x1 ++ y1) &&& (x2 ++ y2) = (x1 &&& x2) ++ (y1 &&& y2) := by
  apply BitVec.eq_of_getLsbD_eq
  intro k hk
  by_cases h : k < n <;> simp [BitVec.getLsbD_append, h]

/-- The fixed bits of a word are its opcode and the reserved bits of its operand. -/
theorem fixed_bits {opc : Byte} {opnd reserved : Operand} (h : opnd &&& reserved = 0#24) :
    (opc ++ opnd) &&& (0xFF#8 ++ reserved) = opc ++ 0#24 := by
  rw [append_and, h, show (0xFF#8 : Byte) = BitVec.allOnes 8 from rfl, BitVec.and_allOnes]

/-- Two fields side by side, a mask over the upper one only. -/
theorem upper_zero {m n : Nat} {x u : BitVec m} (y : BitVec n) (h : x &&& u = 0#m) :
    (x ++ y) &&& (u ++ 0#n) = 0#m ++ 0#n := by
  rw [append_and, h, BitVec.and_zero]

/-- Two fields side by side, a mask over the lower one only. -/
theorem lower_zero {m n : Nat} (x : BitVec m) (u : BitVec n) :
    (x ++ 0#n) &&& (0#m ++ u) = 0#m ++ 0#n := by
  rw [append_and, BitVec.and_zero, BitVec.zero_and]

/-- A command whose reserved operand bits are zero has the fixed bits of its row. -/
theorem of_reserved {i : Instr} (reserved : Operand) (hr : operandOf i &&& reserved = 0#24)
    (hm : (row i).1 = 0xFF#8 ++ reserved) (hv : (row i).2 = opcodeOf i ++ 0#24) : Statement i := by
  unfold Statement encode
  rw [hm, hv]
  exact fixed_bits hr

theorem nop : Statement .nop := by unfold Statement; decide
theorem busOpen (mask : BitVec 2) : Statement (.busOpen mask) := by unfold Statement; revert mask; decide
theorem busClose (mask : BitVec 2) : Statement (.busClose mask) := by unfold Statement; revert mask; decide
theorem rbWrite (addr : RegAddr) (val : Byte) : Statement (.rbWrite addr val) :=
  of_reserved 0x000000#24 BitVec.and_zero (by simp only [row]; decide) (by simp only [row, opcodeOf]; decide)
theorem rbRead (addr : RegAddr) : Statement (.rbRead addr) :=
  of_reserved 0x0000FF#24 (lower_zero addr 0xFF#8) (by simp only [row]; decide) (by simp only [row, opcodeOf]; decide)
theorem sbXferByte (byte : Byte) : Statement (.sbXferByte byte) :=
  of_reserved 0xFFFF00#24 (upper_zero byte (u := 0xFFFF#16) BitVec.zero_and) (by simp only [row]; decide) (by simp only [row, opcodeOf]; decide)
theorem sbXferWord (word : BitVec 16) : Statement (.sbXferWord word) :=
  of_reserved 0xFF0000#24 (upper_zero word (u := 0xFF#8) BitVec.zero_and) (by simp only [row]; decide) (by simp only [row, opcodeOf]; decide)
theorem sbCs (a : BitVec 1) : Statement (.sbCs a) := by unfold Statement; revert a; decide
theorem cfgApply (base : BitVec 16) : Statement (.cfgApply base) :=
  of_reserved 0xFF0000#24 (upper_zero base (u := 0xFF#8) BitVec.zero_and) (by simp only [row]; decide) (by simp only [row, opcodeOf]; decide)
theorem cfgRead (base : BitVec 16) : Statement (.cfgRead base) :=
  of_reserved 0xFF0000#24 (upper_zero base (u := 0xFF#8) BitVec.zero_and) (by simp only [row]; decide) (by simp only [row, opcodeOf]; decide)
theorem fccSelfTest (maxAtt : BitVec 16) : Statement (.fccSelfTest maxAtt) :=
  of_reserved 0xFF0000#24 (upper_zero maxAtt (u := 0xFF#8) BitVec.zero_and) (by simp only [row]; decide) (by simp only [row, opcodeOf]; decide)
theorem fccFlush : Statement .fccFlush := by unfold Statement; decide
theorem fccTrigger : Statement .fccTrigger := by unfold Statement; decide
theorem fccPollDone : Statement .fccPollDone := by unfold Statement; decide
theorem fccReadLen : Statement .fccReadLen := by unfold Statement; decide
theorem fccBurstRead (cap : BitVec 24) : Statement (.fccBurstRead cap) :=
  of_reserved 0x000000#24 BitVec.and_zero (by simp only [row]; decide) (by simp only [row, opcodeOf]; decide)
theorem fccSingleCapture (cap : BitVec 24) : Statement (.fccSingleCapture cap) :=
  of_reserved 0x000000#24 BitVec.and_zero (by simp only [row]; decide) (by simp only [row, opcodeOf]; decide)
theorem fccWriteReg (reg : Byte) (val : Byte) : Statement (.fccWriteReg reg val) :=
  of_reserved 0xFF0000#24 (upper_zero val (upper_zero reg (u := 0xFF#8) BitVec.zero_and)) (by simp only [row]; decide) (by simp only [row, opcodeOf]; decide)
theorem fccReadReg (reg : Byte) : Statement (.fccReadReg reg) :=
  of_reserved 0xFF00FF#24
    ((append_and (0#8 ++ reg) (0xFF#8 ++ 0#8) 0#8 0xFF#8).trans (by
      rw [upper_zero reg (u := 0xFF#8) BitVec.zero_and, BitVec.zero_and]; rfl))
    (by simp only [row]; decide) (by simp only [row, opcodeOf]; decide)
theorem fccSetBit (reg : Byte) (mask : Byte) : Statement (.fccSetBit reg mask) :=
  of_reserved 0xFF0000#24 (upper_zero mask (upper_zero reg (u := 0xFF#8) BitVec.zero_and)) (by simp only [row]; decide) (by simp only [row, opcodeOf]; decide)
theorem fccClrBit (reg : Byte) (mask : Byte) : Statement (.fccClrBit reg mask) :=
  of_reserved 0xFF0000#24 (upper_zero mask (upper_zero reg (u := 0xFF#8) BitVec.zero_and)) (by simp only [row]; decide) (by simp only [row, opcodeOf]; decide)
theorem fccGetBit (reg : Byte) (mask : Byte) : Statement (.fccGetBit reg mask) :=
  of_reserved 0xFF0000#24 (upper_zero mask (upper_zero reg (u := 0xFF#8) BitVec.zero_and)) (by simp only [row]; decide) (by simp only [row, opcodeOf]; decide)
theorem btnArmWait : Statement .btnArmWait := by unfold Statement; decide

end Sys2Proof.Laws.InTableRow
end

