-- ==== Sys2Proof/Laws/Run.lean ====
section
/-! SUPPORT. How a command's run is put together from its atomic steps, and the order in which it takes the
environment's answers. -/

namespace Sys2Proof.Machine

/-! ## The operations -/

section
variable (p : Prog) (f : Flight) (s : State)

@[simp] theorem runOp_raiseIf (c : Cond) (e : Err) :
    runOp p f s (.raiseIf c e) = if c.holds f s then s.raise p f e else s.advance f := rfl
@[simp] theorem runOp_failIf (c : Cond) (e : Err) :
    runOp p f s (.failIf c e) = if c.holds f s then s.fail p f e else s.advance f := rfl
@[simp] theorem runOp_reraise :
    runOp p f s .reraise = (match f.outcome with | some e => s.raise p f e | none => s) := rfl
@[simp] theorem runOp_skipIf (c : Cond) (count : Nat) :
    runOp p f s (.skipIf c count) = if c.holds f s then s.goto f (f.pos + 1 + count) else s.advance f := rfl
@[simp] theorem runOp_back (count : Nat) :
    runOp p f s (.back count) = s.goto f (f.pos - count) := rfl
@[simp] theorem runOp_complete (x : Val) :
    runOp p f s (.complete x) = s.finish none (x.value f) := rfl
@[simp] theorem runOp_rbWrite (addr : RegAddr) (val : Byte) :
    runOp p f s (.rbWrite addr val) = s.rbWriteFrame p f (rbWriteBytes s.cfg.aw addr val) := rfl
@[simp] theorem runOp_rbWriteEntry :
    runOp p f s .rbWriteEntry = s.rbWriteFrame p f (rbWriteBytes s.cfg.aw (entryAddr f.e) (entryVal f.e)) := rfl
@[simp] theorem runOp_rbRead (addr : RegAddr) :
    runOp p f s (.rbRead addr) = s.rbReadFrame p f (rbReadBytes s.cfg.aw addr) := rfl
@[simp] theorem runOp_rbReadEntry :
    runOp p f s .rbReadEntry = s.rbReadFrame p f (rbReadBytes s.cfg.aw (entryAddr f.e)) := rfl
@[simp] theorem runOp_xfer (tx : Tx) (slot : Slot) :
    runOp p f s (.xfer tx slot) = s.sbTransfer p f (tx.value f) slot := rfl
@[simp] theorem runOp_cs (a : Bool) :
    runOp p f s (.cs a) = (s.driveCs a).advance f := rfl
@[simp] theorem runOp_csRelease :
    runOp p f s .csRelease = if s.bus.cs then (s.driveCs false).advance f else s.advance f := rfl
@[simp] theorem runOp_busOpen (b : Bus) :
    runOp p f s (.busOpen b) = s.openBus p f b := rfl
@[simp] theorem runOp_busClose (b : Bus) :
    runOp p f s (.busClose b) = (s.record (.busClose b)).advance f := rfl
@[simp] theorem runOp_setUp (b : Bus) (v : Bool) :
    runOp p f s (.setUp b v) = State.advance { s with bus := s.bus.setUp b v } f := rfl
@[simp] theorem runOp_delay (t : Wait) :
    runOp p f s (.delay t) = (s.record (.delay t)).advance f := rfl
@[simp] theorem runOp_startList (base : BitVec 16) :
    runOp p f s (.startList base) = s.advance { f with n := 0#32, i := base.toNat } := rfl
@[simp] theorem runOp_readEntry :
    runOp p f s .readEntry = s.ceReadCfg f := rfl
@[simp] theorem runOp_writeBack :
    runOp p f s .writeBack = s.ceWriteCfg f f.i (entryWithVal f.e f.v) := rfl
@[simp] theorem runOp_nextEntry :
    runOp p f s .nextEntry = s.advance { f with n := f.n + 1#32, i := f.i + 1 } := rfl
@[simp] theorem runOp_attempt :
    runOp p f s .attempt = s.advance { f with a := saturatingSucc f.a } := rfl
@[simp] theorem runOp_setFst (x : Fst) :
    runOp p f s (.setFst x) = State.advance { s with fst := x } f := rfl
@[simp] theorem runOp_assembleLength :
    runOp p f s .assembleLength = s.advance { f with len := fifoLength f.b1 f.b2 f.b3 } := rfl
@[simp] theorem runOp_startBuffer :
    runOp p f s .startBuffer = State.advance { s with bufLen := 0#24 } { f with k := 0 } := rfl
@[simp] theorem runOp_storeByte :
    runOp p f s .storeByte = s.ceWriteBuf f f.v := rfl
@[simp] theorem runOp_setBufLen :
    runOp p f s .setBufLen = State.advance { s with bufLen := f.len.setWidth 24 } f := rfl
@[simp] theorem runOp_arm :
    runOp p f s .arm = State.advance { s with button := { s.button with pend := false, bst := .armed } } f := rfl
@[simp] theorem runOp_awaitEdge :
    runOp p f s .awaitEdge = s.takeEdge := rfl

end

/-! ## The conditions -/

section
variable (f : Flight) (s : State)

@[simp] theorem Cond.holds_busUp (b : Bus) : (Cond.busUp b).holds f s = s.bus.up b := rfl
@[simp] theorem Cond.holds_csAsserted : Cond.csAsserted.holds f s = s.bus.cs := rfl
@[simp] theorem Cond.holds_fstIs (x : Fst) : (Cond.fstIs x).holds f s = (s.fst == x) := rfl
@[simp] theorem Cond.holds_addressFits (addr : RegAddr) :
    (Cond.addressFits addr).holds f s = Sys2Proof.addressFits s.cfg.aw addr := rfl
@[simp] theorem Cond.holds_capacityFits (cap : BitVec 24) :
    (Cond.capacityFits cap).holds f s = Sys2Proof.capacityFits s.params.bufBytes cap := rfl
@[simp] theorem Cond.holds_listEnd : Cond.listEnd.holds f s = decide (s.params.cfgWords ≤ f.i) := rfl
@[simp] theorem Cond.holds_malformed : Cond.malformed.holds f s = entryMalformed s.cfg.aw f.e := rfl
@[simp] theorem Cond.holds_sentinel : Cond.sentinel.holds f s = isSentinel s.cfg.aw f.e := rfl
@[simp] theorem Cond.holds_bitSet (mask : Byte) : (Cond.bitSet mask).holds f s = (f.v &&& mask != 0#8) := rfl
@[simp] theorem Cond.holds_received (b : Byte) : (Cond.received b).holds f s = (f.v == b) := rfl
@[simp] theorem Cond.holds_attemptsSpent (m : BitVec 16) :
    (Cond.attemptsSpent m).holds f s = (m != 0#16 && decide ((zext32 m).toNat ≤ f.a.toNat)) := rfl
@[simp] theorem Cond.holds_lengthOver (cap : BitVec 24) :
    (Cond.lengthOver cap).holds f s = decide (cap.toNat < f.len.toNat) := rfl
@[simp] theorem Cond.holds_moreBytes : Cond.moreBytes.holds f s = decide (f.k < f.len.toNat) := rfl
@[simp] theorem Cond.holds_not (c : Cond) : (Cond.not c).holds f s = !c.holds f s := rfl

end

/-! ## The environment's answers -/

@[simp] theorem Answer.rbError_ok (b : Byte) : (Answer.ok b).rbError = none := rfl
@[simp] theorem Answer.sbError_ok (b : Byte) : (Answer.ok b).sbError = none := rfl
@[simp] theorem Answer.openError_ok (b : Byte) : (Answer.ok b).openError = none := rfl
@[simp] theorem Answer.byte_ok (b : Byte) : (Answer.ok b).byte = b := rfl

/-- A failed answer to a serial-bus transfer is an IOFailure (92 D16). -/
theorem Answer.sbError_of_not_isOk {a : Answer} (h : a.isOk = false) : a.sbError = some .ioFailure := by
  cases a <;> simp_all [Answer.isOk, Answer.sbError]

/-- A failed answer to a bus open is BusUnavailable (92 D16). -/
theorem Answer.openError_of_not_isOk {a : Answer} (h : a.isOk = false) : a.openError = some .busUnavailable := by
  cases a <;> simp_all [Answer.isOk, Answer.openError]

theorem World.dropTurn_drawAnswer (x : World) :
    x.dropTurn.drawAnswer = (x.drawAnswer.1, x.drawAnswer.2.dropTurn) := by
  obtain ⟨r, t, a, k, e⟩ := x
  cases a <;> rfl

/-- Taking a turn takes no answer. -/
@[simp] theorem World.dropTurn_drawAnswer_fst (x : World) : x.dropTurn.drawAnswer.1 = x.drawAnswer.1 := by
  rw [World.dropTurn_drawAnswer]

@[simp] theorem World.dropTurn_drawAnswer_snd (x : World) : x.dropTurn.drawAnswer.2 = x.drawAnswer.2.dropTurn := by
  rw [World.dropTurn_drawAnswer]

@[simp] theorem World.skipAnswers_zero (x : World) : World.skipAnswers 0 x = x := rfl

theorem World.skipAnswers_add (m n : Nat) (x : World) :
    World.skipAnswers (m + n) x = World.skipAnswers n (World.skipAnswers m x) := by
  induction m generalizing x with
  | zero => simp
  | succ m ih => rw [Nat.succ_add]; simp only [World.skipAnswers]; exact ih _

/-- One answer after `n` others. -/
theorem World.skipAnswers_succ (n : Nat) (x : World) :
    World.skipAnswers (n + 1) x = (World.skipAnswers n x).drawAnswer.2 :=
  World.skipAnswers_add n 1 x

theorem World.skipAnswers_dropTurn (n : Nat) (x : World) :
    World.skipAnswers n x.dropTurn = (World.skipAnswers n x).dropTurn := by
  induction n generalizing x with
  | zero => rfl
  | succ n ih => simp [World.skipAnswers, ih]

/-- Answers are numbered on from where a run stands. -/
theorem World.answerAt_skipAnswers (x : World) (m n : Nat) :
    (World.skipAnswers m x).answerAt n = x.answerAt (m + n) := by
  simp only [World.answerAt, World.skipAnswers_add]

@[simp] theorem World.answerAt_dropTurn (x : World) (n : Nat) : x.dropTurn.answerAt n = x.answerAt n := by
  simp [World.answerAt, World.skipAnswers_dropTurn]

/-- Answers leave the number of resets alone, and with it what unwritten memory reads as. -/
@[simp] theorem World.skipAnswers_epoch (n : Nat) (x : World) : (World.skipAnswers n x).epoch = x.epoch := by
  induction n generalizing x with
  | zero => rfl
  | succ n ih => rw [World.skipAnswers, ih]; unfold World.drawAnswer; split <;> rfl

@[simp] theorem World.dropTurn_epoch (x : World) : x.dropTurn.epoch = x.epoch := rfl

/-- A successful answer is no error of any primitive. -/
theorem Answer.ok_of_isOk {a : Answer} (h : a.isOk = true) : a = .ok a.byte := by
  cases a <;> simp_all [Answer.isOk, Answer.byte]

/-! ## From the start of a command to its end -/

/-- Every command's pseudocode has an operation. -/
theorem progOf_code_pos (q : Params) (i : Instr) : 0 < (progOf q i).code.length := by
  cases i <;> simp [progOf, Prog.code, nopProg, busOpenProg, busCloseProg, rbWriteProg, rbReadProg, sbXferByteProg,
    sbXferWordProg, sbCsProg, cfgApplyProg, cfgReadProg, fccSelfTestProg, fccFlushProg, fccTriggerProg, fccPollDoneProg,
    fccReadLenProg, fccBurstReadProg, fccSingleCaptureProg, fccWriteRegProg, fccReadRegProg, fccSetBitProg,
    fccClrBitProg, fccGetBitProg, btnArmWaitProg, fccChecks, listStartOps]

/-- A command that starts and whose first `n` steps complete it answers the completed state. -/
theorem exec_of_ceSteps {i : Instr} {n : Nat} {s t : State} (h : Starts i n s)
    (ht : ceSteps (progOf s.params i) n s.dropTurn = t) (hc : t.ce = none) : exec i s = .next t := by
  obtain ⟨hf, hn⟩ := h
  rw [exec_eq_runCommand, runCommand_of_ce hf (by exact progOf_code_pos _ _)]
  obtain ⟨k, hk⟩ := Nat.exists_eq_add_of_le hn
  rw [hk, ceSteps_add]
  have : ceSteps (progOf s.params i) n { s with world := s.world.dropTurn } = t := ht
  rw [this, ceSteps_idle _ _ hc]

/-- A property that every operation of a command's pseudocode keeps is kept by the command's turn. -/
theorem exec_induct {i : Instr} {s t : State} {Q : State → Prop} (h : exec i s = .next t) (h0 : Q s.dropTurn)
    (hstep : ∀ s' f op, Q s' → s'.params = s.params → s'.ce = some f → op ∈ (progOf s.params i).code →
      Q (runOp (progOf s.params i) f s' op)) : Q t := by
  rw [exec_eq_runCommand] at h
  obtain ⟨f, hf, hp, rfl⟩ := runCommand_next h
  have hs : s.dropTurn.params = s.params := rfl
  exact (ceSteps_induct (p := progOf s.params i) (Q := fun s' => Q s' ∧ s'.params = s.params)
    (fun s' f op hq hf hop => ⟨hstep s' f op hq.1 hq.2 hf (List.mem_of_getElem? hop), by
      rw [(runOp_const_frame _ _ _ _).1]; exact hq.2⟩) (s.world.moreSteps + 1) s.dropTurn ⟨h0, hs⟩).1

/-- The operation at the position is the next of the steps. -/
theorem ceSteps_op {p : Prog} {n : Nat} {s : State} {f : Flight} {op : Op} (hf : s.ce = some f)
    (hop : p.code[f.pos]? = some op) : ceSteps p (n + 1) s = ceSteps p n (runOp p f s op) := by
  rw [ceSteps, ceStep_of_op hf hop]

/-! ## What the passed checks tell -/

/-- A fact about the operands of the operations of a list, decided operand by operand. -/
theorem forall_operand {α : Type} {ops : List Op} {g : Op → Option α} {P : α → Bool}
    (h : (ops.all fun op => (g op).all P) = true) : ∀ op ∈ ops, ∀ a ∈ g op, P a = true := by
  intro op hop a ha
  have := List.all_eq_true.1 h op hop
  simp_all

/-- Every command's first operation stands in its main part and stores no byte. -/
theorem progOf_main_pos (q : Params) (i : Instr) :
    0 < (progOf q i).main.length ∧ (progOf q i).inByte 0 = false := by
  cases i
  case busOpen m =>
    simp only [progOf, busOpenProg]
    cases m.getLsbD 0 <;> cases m.getLsbD 1 <;> exact ⟨Nat.zero_lt_succ _, rfl⟩
  case busClose m =>
    simp only [progOf, busCloseProg]
    cases m.getLsbD 0 <;> cases m.getLsbD 1 <;> exact ⟨Nat.zero_lt_succ _, rfl⟩
  all_goals exact ⟨Nat.zero_lt_succ _, rfl⟩

/-- Every command that starts is in front of all its checks. -/
theorem Flight.start_sound (s : State) (i : Instr) (w : Word) : (Flight.start w).Sound (progOf s.params i) s where
  inside := progOf_code_pos _ _
  busChecked := fun _ h => absurd h List.not_mem_nil
  capacityChecked := fun _ h => absurd h List.not_mem_nil
  lengthChecked := fun _ _ h => absurd h List.not_mem_nil
  released := fun h => absurd h List.not_mem_nil
  csFramed := fun _ h => absurd h Bool.false_ne_true
  byteCounted := fun h => absurd h (by rw [show (Flight.start w).pos = 0 from rfl, (progOf_main_pos _ _).2]; decide)
  entryInside := fun h => absurd h Bool.false_ne_true
  errorHeld := fun h => absurd h (Nat.not_le.2 (progOf_main_pos _ _).1)

/-- No command that starts is on the way to a change of FST. -/
theorem FstChange.holds_start (c : FstChange) (s : State) (w : Word) : c.Holds (Flight.start w) s where
  source := fun h => absurd h (Nat.not_lt_zero _)
  recorded := fun h => absurd h (Nat.not_lt_zero _)
  shown := fun h => absurd h (Nat.not_lt_zero _)

end Sys2Proof.Machine
end

