-- ==== Sys2Proof/Tests/Slice0.lean ====
section
/-! SUPPORT. The model's own tests, one step each, on the values of spec/95_test_vectors.md (the vector's number stands
at each test); the smoke test of the well-formedness checks; the decoding of one word of every row; and the witnesses:
for every statement with hypotheses, states and operands that meet them. -/

namespace Sys2Proof.Tests

open Sys2Proof Sys2Proof.Machine

set_option Elab.async false

/-! ## Helpers -/

/-- The parameters of the vectors (95_test_vectors.md). -/
def testParams : Params where
  bufLast := 1023
  cfgLast := 255
  sensorAddr := 0#7
  regTest := 0x00#8
  testPattern := 0x55#8
  regFifo := 0x04#8
  fifoClearMask := 0x01#8
  fifoStartMask := 0x02#8
  regTrig := 0x41#8
  capDoneMask := 0x08#8
  regSize1 := 0x42#8
  regSize2 := 0x43#8
  regSize3 := 0x44#8
  burstCmd := 0x3C#8
  settleExtra := 0
  pollExtra := 0
  retryExtra := 0
  tSample := 0

/-- The reset state. -/
def idle : State := State.resetWith testParams

/-- Both buses up. -/
def up : State := { idle with bus := { rbUp := true, sbUp := true, cs := false } }

/-- Both buses up, chip select asserted. -/
def selected : State := { up with bus := { rbUp := true, sbUp := true, cs := true } }

/-- The register bus in 16-bit mode. -/
def wide (s : State) : State := { s with cfg := { s.cfg with aw := true } }

/-- A FIFO state. -/
def fifo (x : Fst) (s : State) : State := { s with fst := x }

/-- CFGMEM words from word `i` on. -/
def withWords (s : State) (i : Nat) : List Word → State
  | [] => s
  | w :: rest => withWords { s with cfgmem := s.cfgmem.setWord i w } (i + 1) rest

/-- Successful answers with the given bytes. -/
def oks (bytes : List Byte) : List Answer := bytes.map Answer.ok

/-- The command accepted, the next turn the engine's, long enough for every test. -/
def starting (s : State) (i : Instr) (answers : List Answer) : State :=
  { s with
    ce := some (Flight.start (encode i))
    world := { s.world with turns := [.ce 200], answers := answers } }

/-- The state after the command's turn. -/
def after (i : Instr) (s : State) : State :=
  match exec i s with
  | .next t => t
  | .fault _ => s
  | .refused _ => s

/-- The meaning answers a next state. -/
def runs (i : Instr) (s : State) : Bool :=
  match exec i s with
  | .next _ => true
  | .fault _ => false
  | .refused _ => false

theorem exec_after {i : Instr} {s : State} (h : runs i s = true) : exec i s = .next (after i s) := by
  unfold runs at h
  unfold after
  split at h <;> simp_all

/-- The state after a step. -/
def stepped (s : State) : State :=
  match step s with
  | .next t => t
  | .fault _ => s
  | .refused _ => s

/-- A command run on a state with given answers. -/
def doCmd (s : State) (i : Instr) (answers : List Answer) : State := after i (starting s i answers)

/-- What a test looks at: ERR, RESULT, and the bus trace of a completed command. -/
def shows (s : State) (err : Option Err) (result : Word) (trace : List Event) : Bool :=
  decide (s.ce = none) && s.status.cdone && decide (s.status.err = err) && decide (s.result = result) &&
    decide (busTrace s.history = trace)

/-- The same for an error whose rule leaves RESULT open. -/
def showsError (s : State) (e : Err) (trace : List Event) : Bool :=
  decide (s.ce = none) && s.status.cdone && decide (s.status.err = some e) && decide (busTrace s.history = trace)

/-! ## Well-formedness: an ill-formed term for each check (R104) -/

theorem test_wf_address_rejected : (Instr.rbWrite 0xFF10#16 0x20#8).wellFormed false 1024 = false := by decide
theorem test_wf_address_accepted_wide : (Instr.rbWrite 0xFF10#16 0x20#8).wellFormed true 1024 = true := by decide
theorem test_wf_read_address_rejected : (Instr.rbRead 0x0100#16).wellFormed false 1024 = false := by decide
theorem test_wf_capacity_rejected : (Instr.fccSingleCapture 1025#24).wellFormed false 1024 = false := by decide
theorem test_wf_capacity_accepted : (Instr.fccSingleCapture 1024#24).wellFormed false 1024 = true := by decide
theorem test_wf_burst_capacity_rejected : (Instr.fccBurstRead 1025#24).wellFormed true 1024 = false := by decide

theorem test_reserved_n : Format.reservedClear .n 0x000001#24 = false := by decide
theorem test_reserved_m : Format.reservedClear .m 0x000004#24 = false := by decide
theorem test_reserved_rr : Format.reservedClear .rr 0x001001#24 = false := by decide
theorem test_reserved_b : Format.reservedClear .b 0x000100#24 = false := by decide
theorem test_reserved_w : Format.reservedClear .w 0x010000#24 = false := by decide
theorem test_reserved_c : Format.reservedClear .c 0x000002#24 = false := by decide
theorem test_reserved_l : Format.reservedClear .l 0x010000#24 = false := by decide
theorem test_reserved_t : Format.reservedClear .t 0x800000#24 = false := by decide
theorem test_reserved_s : Format.reservedClear .s 0x010000#24 = false := by decide
theorem test_reserved_sr : Format.reservedClear .sr 0x008501#24 = false := by decide

/-! ## Decoding: a word of every row, written out from R100 to R103 -/

theorem test_decode_nop : decode 0b00000000000000000000000000000000#32 = .ok .nop := by decide
theorem test_decode_busOpen : decode 0b00000001000000000000000000000011#32 = .ok (.busOpen 3#2) := by decide
theorem test_decode_busClose : decode 0b00000010000000000000000000000010#32 = .ok (.busClose 2#2) := by decide
theorem test_decode_rbWrite : decode 0b00010000001100000001001010000000#32 = .ok (.rbWrite 0x3012#16 0x80#8) := by
  decide
theorem test_decode_rbRead : decode 0b00010001001100000000101000000000#32 = .ok (.rbRead 0x300A#16) := by decide
theorem test_decode_sbXferByte : decode 0b00011000000000000000000000111100#32 = .ok (.sbXferByte 0x3C#8) := by decide
theorem test_decode_sbXferWord : decode 0b00011001000000001000000101010101#32 = .ok (.sbXferWord 0x8155#16) := by
  decide
theorem test_decode_sbCs : decode 0b00011010000000000000000000000001#32 = .ok (.sbCs 1#1) := by decide
theorem test_decode_cfgApply : decode 0b00100000000000000000000100000000#32 = .ok (.cfgApply 0x0100#16) := by decide
theorem test_decode_cfgRead : decode 0b00100001000000001000000000000001#32 = .ok (.cfgRead 0x8001#16) := by decide
theorem test_decode_fccSelfTest : decode 0b00110000000000000000000000000010#32 = .ok (.fccSelfTest 2#16) := by decide
theorem test_decode_fccFlush : decode 0b00110001000000000000000000000000#32 = .ok .fccFlush := by decide
theorem test_decode_fccTrigger : decode 0b00110010000000000000000000000000#32 = .ok .fccTrigger := by decide
theorem test_decode_fccPollDone : decode 0b00110011000000000000000000000000#32 = .ok .fccPollDone := by decide
theorem test_decode_fccReadLen : decode 0b00110100000000000000000000000000#32 = .ok .fccReadLen := by decide
theorem test_decode_fccBurstRead : decode 0b00110101000000000000000000001010#32 = .ok (.fccBurstRead 10#24) := by
  decide
theorem test_decode_fccSingleCapture :
    decode 0b00110110100000000000000000000100#32 = .ok (.fccSingleCapture 0x800004#24) := by decide
theorem test_decode_fccWriteReg :
    decode 0b00111000000000000000010000000010#32 = .ok (.fccWriteReg 0x04#8 0x02#8) := by decide
theorem test_decode_fccReadReg : decode 0b00111001000000001000010100000000#32 = .ok (.fccReadReg 0x85#8) := by decide
theorem test_decode_fccSetBit : decode 0b00111010000000000000001100010000#32 = .ok (.fccSetBit 0x03#8 0x10#8) := by
  decide
theorem test_decode_fccClrBit : decode 0b00111011000000000000001111111111#32 = .ok (.fccClrBit 0x03#8 0xFF#8) := by
  decide
theorem test_decode_fccGetBit : decode 0b00111100000000000100000100001100#32 = .ok (.fccGetBit 0x41#8 0x0C#8) := by
  decide
theorem test_decode_btnArmWait : decode 0b01000000000000000000000000000000#32 = .ok .btnArmWait := by decide

/-- L2-A2, A6, A9, A10, A11, A18, A19: a reserved bit is 1. -/
theorem test_decode_reserved_bits :
    [0x00000001#32, 0x01000004#32, 0x11001001#32, 0x1A000002#32, 0x39008501#32, 0x20010000#32, 0x40000001#32].all
      (fun w => decide (decode w = .error .reservedBitSet)) = true := by decide

/-- L2-A3, A4, A5: unknown opcodes. -/
theorem test_decode_unknown_opcodes :
    [0x03000000#32, 0x37000000#32, 0xFF000000#32].all (fun w => decide (decode w = .error .unknownOpcode)) = true := by
  decide

/-- The words of R120's examples and `decodeTableWord`. -/
theorem test_decodeTableWord : decodeTableWord 32 0x10301280 = some (.rbWrite 0x3012#16 0x80#8) := by decide

/-! ## The assembler (R120, R122, R123) -/

theorem test_assemble : assembleLine "RB_WRITE 0x3012, 0x80".toList = some (.rbWrite 0x3012#16 0x80#8) := by
  decide +kernel
theorem test_assemble_too_wide : assembleLine "SB_CS 2".toList = none := by decide +kernel
theorem test_disassemble : disassemble true 1024 0x10301280#32 = "RB_WRITE 0x3012, 0x80".toList := by decide +kernel
theorem test_disassemble_illegal : disassemble true 1024 0x37000000#32 = ".word 0x37000000".toList := by
  decide +kernel

/-! ## One turn of each command -/

/-- L2-A1. -/
theorem test_nop : shows (doCmd idle .nop []) none 0#32 [] = true := by decide +kernel

/-- L2-B1. -/
theorem test_busOpen :
    shows (doCmd idle (.busOpen 3#2) (oks [0#8, 0#8])) none 0#32 [.busOpen .rb none, .busOpen .sb none] = true ∧
    statusWord (doCmd idle (.busOpen 3#2) (oks [0#8, 0#8])) = 0x00001802#32 := by decide +kernel

/-- L2-B3: the register bus stays up when the serial bus fails. -/
theorem test_busOpen_fails :
    statusWord (doCmd idle (.busOpen 3#2) [.ok 0#8, .failure]) = 0x00000812#32 := by decide +kernel

/-- L2-B6: chip select is deasserted before the serial bus closes. -/
theorem test_busClose :
    shows (doCmd selected (.busClose 2#2) []) none 0#32 [.sbCs false, .busClose .sb] = true ∧
    (doCmd selected (.busClose 2#2) []).bus = { rbUp := true, sbUp := false, cs := false } := by decide +kernel

/-- L2-A8. -/
theorem test_rbWrite :
    shows (doCmd (wide up) (.rbWrite 0xFF10#16 0x20#8) (oks [0#8])) none 0#32
      [.rbWrite [0xFF#8, 0x10#8, 0x20#8] none] = true := by decide +kernel

/-- L2-A7: IllegalCommand beats BusUnavailable. -/
theorem test_rbWrite_address : showsError (doCmd idle (.rbWrite 0xFF10#16 0x20#8) []) .illegalCommand [] = true := by
  decide +kernel

/-- L2-B11. -/
theorem test_rbRead :
    shows (doCmd (wide up) (.rbRead 0x300A#16) (oks [0x5A#8])) none 0x5A#32
      [.rbRead [0x30#8, 0x0A#8] (.byte 0x5A#8)] = true := by decide +kernel

/-- L2-B12. -/
theorem test_rbRead_unavailable :
    showsError (doCmd up (.rbRead 0x0A#16) [.unavailable]) .busUnavailable
      [.rbRead [0x0A#8] (.failed .busUnavailable)] = true := by decide +kernel

/-- L2-B13. -/
theorem test_sbXferByte :
    shows (doCmd up (.sbXferByte 0x3C#8) (oks [0xA5#8])) none 0xA5#32 [sent 0x3C#8 0xA5#8] = true := by decide +kernel

/-- L2-B14. -/
theorem test_sbXferWord :
    shows (doCmd up (.sbXferWord 0x8155#16) (oks [0x12#8, 0x34#8])) none 0x1234#32
      [sent 0x81#8 0x12#8, sent 0x55#8 0x34#8] = true := by decide +kernel

/-- L2-B15. -/
theorem test_sbXferWord_fails :
    showsError (doCmd up (.sbXferWord 0x8155#16) [.ok 0x12#8, .failure]) .ioFailure
      [sent 0x81#8 0x12#8, failedTransfer 0x55#8] = true := by decide +kernel

/-- L2-B16. -/
theorem test_sbCs :
    shows (doCmd selected (.sbCs 1#1) []) none 0#32 [.sbCs true] = true ∧ (doCmd up (.sbCs 1#1) []).bus.cs = true := by
  decide +kernel

/-- The list of L1-1. -/
def listOfL11 : State := withWords up 0 [0x00200010#32, 0x00300011#32, 0x00FF00FF#32]

/-- L1-1. -/
theorem test_cfgApply :
    shows (doCmd listOfL11 (.cfgApply 0#16) (oks [0#8, 0#8])) none 2#32
      [.delay .settle, .rbWrite [0x10#8, 0x20#8] none, .delay .settle, .delay .settle,
       .rbWrite [0x11#8, 0x30#8] none, .delay .settle] = true := by decide +kernel

/-- L2-C8. -/
theorem test_cfgApply_overrun :
    shows (doCmd (withWords up 255 [0x00200010#32]) (.cfgApply 255#16) (oks [0#8])) (some .listOverrun) 1#32
      [.delay .settle, .rbWrite [0x10#8, 0x20#8] none, .delay .settle] = true := by decide +kernel

/-- L2-C11: bits 31:24 of the entry are preserved. -/
theorem test_cfgRead :
    (doCmd (withWords up 0 [0x7E000010#32, 0x00FF00FF#32]) (.cfgRead 0#16) (oks [0x33#8])).cfgWordAt 0 =
      0x7E330010#32 := by decide +kernel

/-- L2-C10: the read-back makes a sentinel, the command goes on. -/
theorem test_cfgRead_sentinel :
    (doCmd (withWords up 0 [0x000000FF#32, 0x00FF00FF#32]) (.cfgRead 0#16) (oks [0xFF#8])).cfgWordAt 0 =
      0x00FF00FF#32 ∧
    (doCmd (withWords up 0 [0x000000FF#32, 0x00FF00FF#32]) (.cfgRead 0#16) (oks [0xFF#8])).result = 1#32 := by
  decide +kernel

/-- L1-5. -/
theorem test_fccSelfTest :
    (doCmd up (.fccSelfTest 0#16)
      (oks [0#8, 0#8, 0#8, 0x00#8, 0#8, 0#8, 0#8, 0x00#8, 0#8, 0#8, 0#8, 0x00#8, 0#8, 0#8, 0#8, 0x55#8])).result =
      4#32 := by decide +kernel

/-- L2-D18. -/
theorem test_fccSelfTest_gives_up :
    shows (doCmd up (.fccSelfTest 1#16) (oks [0#8, 0#8, 0#8, 0x54#8])) (some .protocolMismatch) 1#32
      [.sbCs true, sent 0x80#8 0#8, sent 0x55#8 0#8, .sbCs false, .sbCs true, sent 0x00#8 0#8, sent 0x00#8 0x54#8,
       .sbCs false] = true := by decide +kernel

/-- L2-D2. -/
theorem test_fccFlush :
    shows (doCmd (fifo .done up) .fccFlush (oks [0#8, 0#8])) none 0#32
      [.sbCs true, sent 0x84#8 0#8, sent 0x01#8 0#8, .sbCs false] = true ∧
    (doCmd (fifo .done up) .fccFlush (oks [0#8, 0#8])).fst = .idle := by decide +kernel

/-- L2-D4. -/
theorem test_fccFlush_fails :
    showsError (doCmd (fifo .done up) .fccFlush [.ok 0#8, .failure]) .ioFailure
      [.sbCs true, sent 0x84#8 0#8, failedTransfer 0x01#8, .sbCs false] = true ∧
    (doCmd (fifo .done up) .fccFlush [.ok 0#8, .failure]).fst = .done := by decide +kernel

/-- L2-D5. -/
theorem test_fccTrigger :
    shows (doCmd up .fccTrigger (oks [0#8, 0#8])) none 0#32
      [.sbCs true, sent 0x84#8 0#8, sent 0x02#8 0#8, .sbCs false] = true ∧
    (doCmd up .fccTrigger (oks [0#8, 0#8])).fst = .capturing := by decide +kernel

/-- L2-A15. -/
theorem test_fccTrigger_selected :
    showsError (doCmd (fifo .done selected) .fccTrigger []) .illegalState [] = true := by decide +kernel

/-- L2-D8. -/
theorem test_fccPollDone :
    (doCmd (fifo .capturing up) .fccPollDone (oks [0#8, 0x08#8])).result = 1#32 ∧
    (doCmd (fifo .capturing up) .fccPollDone (oks [0#8, 0x08#8])).fst = .done := by decide +kernel

/-- L2-D7. -/
theorem test_fccPollDone_clear :
    (doCmd (fifo .capturing up) .fccPollDone (oks [0#8, 0xF7#8])).result = 0#32 ∧
    (doCmd (fifo .capturing up) .fccPollDone (oks [0#8, 0xF7#8])).fst = .capturing := by decide +kernel

/-- L1-2. -/
theorem test_fccReadLen :
    shows (doCmd up .fccReadLen (oks [0#8, 0x03#8, 0#8, 0x02#8, 0#8, 0x01#8])) none 0x00010203#32
      [.sbCs true, sent 0x42#8 0#8, sent 0x00#8 0x03#8, .sbCs false,
       .sbCs true, sent 0x43#8 0#8, sent 0x00#8 0x02#8, .sbCs false,
       .sbCs true, sent 0x44#8 0#8, sent 0x00#8 0x01#8, .sbCs false] = true := by decide +kernel

/-- L2-D11: bit 23 is dropped. -/
theorem test_fccReadLen_masked :
    (doCmd up .fccReadLen (oks [0#8, 0x00#8, 0#8, 0x00#8, 0#8, 0x80#8])).result = 0#32 := by decide +kernel

/-- The capture of L1-3 (a). -/
def burstOfL13 : State :=
  doCmd (fifo .done { up with bufLen := 7#24 }) (.fccBurstRead 10#24)
    (oks [0#8, 0x0A#8, 0#8, 0x00#8, 0#8, 0x00#8, 0#8, 0x11#8, 0x12#8, 0x13#8, 0x14#8, 0x15#8, 0x16#8, 0x17#8, 0x18#8,
      0x19#8, 0x1A#8])

/-- L1-3 (a). -/
theorem test_fccBurstRead :
    burstOfL13.bufWordAt 0 = 0x14131211#32 ∧ burstOfL13.bufWordAt 1 = 0x18171615#32 ∧ burstOfL13.bufByte 9 = 0x1A#8 ∧
    burstOfL13.bufLen = 10#24 ∧ burstOfL13.result = 10#32 := by decide +kernel

/-- L1-3 (b). -/
theorem test_fccBurstRead_overflow :
    (doCmd (fifo .done { up with bufLen := 7#24 }) (.fccBurstRead 10#24)
      (oks [0#8, 0x0B#8, 0#8, 0x00#8, 0#8, 0x00#8])).status.err = some .bufferOverflow ∧
    (doCmd (fifo .done { up with bufLen := 7#24 }) (.fccBurstRead 10#24)
      (oks [0#8, 0x0B#8, 0#8, 0x00#8, 0#8, 0x00#8])).bufLen = 7#24 := by decide +kernel

/-- The capture of P3. -/
def captureOfP3 : State :=
  doCmd up (.fccSingleCapture 4#24)
    (oks [0#8, 0#8, 0#8, 0#8, 0#8, 0x00#8, 0#8, 0x08#8, 0#8, 0x04#8, 0#8, 0x00#8, 0#8, 0x00#8, 0#8, 0xDE#8, 0xAD#8,
      0xBE#8, 0xEF#8])

/-- P3. -/
theorem test_fccSingleCapture :
    captureOfP3.bufWordAt 0 = 0xEFBEADDE#32 ∧ captureOfP3.result = 4#32 ∧ statusWord captureOfP3 = 0x00001A02#32 := by
  decide +kernel

/-- L2-D23: the state after the flush stays when the trigger fails. -/
theorem test_fccSingleCapture_fails :
    (doCmd (fifo .done up) (.fccSingleCapture 4#24) [.ok 0#8, .ok 0#8, .failure]).fst = .idle := by decide +kernel

/-- L2-D25. -/
theorem test_fccWriteReg :
    shows (doCmd up (.fccWriteReg 0x04#8 0x02#8) (oks [0#8, 0#8])) none 0#32
      [.sbCs true, sent 0x84#8 0#8, sent 0x02#8 0#8, .sbCs false] = true ∧
    (doCmd up (.fccWriteReg 0x04#8 0x02#8) (oks [0#8, 0#8])).fst = .idle := by decide +kernel

/-- L2-D26. -/
theorem test_fccReadReg :
    shows (doCmd up (.fccReadReg 0x85#8) (oks [0#8, 0x3A#8])) none 0x3A#32
      [.sbCs true, sent 0x05#8 0#8, sent 0x00#8 0x3A#8, .sbCs false] = true := by decide +kernel

/-- L2-D27. -/
theorem test_fccSetBit :
    shows (doCmd up (.fccSetBit 0x03#8 0x10#8) (oks [0#8, 0x01#8, 0#8, 0#8])) none 0#32
      [.sbCs true, sent 0x03#8 0#8, sent 0x00#8 0x01#8, .sbCs false,
       .sbCs true, sent 0x83#8 0#8, sent 0x11#8 0#8, .sbCs false] = true := by decide +kernel

/-- L2-D29. -/
theorem test_fccClrBit :
    shows (doCmd up (.fccClrBit 0x03#8 0xFF#8) (oks [0#8, 0x5A#8, 0#8, 0#8])) none 0#32
      [.sbCs true, sent 0x03#8 0#8, sent 0x00#8 0x5A#8, .sbCs false,
       .sbCs true, sent 0x83#8 0#8, sent 0x00#8 0#8, .sbCs false] = true := by decide +kernel

/-- L2-D30. -/
theorem test_fccGetBit : (doCmd up (.fccGetBit 0x41#8 0x0C#8) (oks [0#8, 0x08#8])).result = 0x08#32 := by
  decide +kernel

/-- A button state in which an edge to `level` is pending. -/
def edgePending (level : Bool) : State :=
  { idle with button := { bst := .pressed, dlevel := some level, cand := some level, cnt := 1#4, pend := true,
                          plevel := level } }

/-- BTN_ARM_WAIT behind its first operation. -/
def waiting (s : State) : State :=
  { s with
    ce := some { Flight.start (encode .btnArmWait) with pos := 1 }
    world := { s.world with turns := [.ce 5] } }

/-- L2-E8: the stale edge is discarded when the command starts. -/
theorem test_btnArmWait_stale :
    (doCmd (edgePending true) .btnArmWait []).busy = true ∧ (doCmd (edgePending true) .btnArmWait []).button.pend = false ∧
    (doCmd (edgePending true) .btnArmWait []).button.bst = .armed := by decide +kernel

/-- L1-4, step 5. -/
theorem test_btnArmWait_edge :
    (after .btnArmWait (waiting (edgePending true))).result = 1#32 ∧
    statusWord (after .btnArmWait (waiting (edgePending true))) = 0x0000C402#32 := by decide +kernel

/-! ## Sampler, host port, reset -/

/-- The samples of a vector on the reset state with EDGE and DBN. -/
def sampled (edge : Edge) (dbn : BitVec 4) (levels : List Bool) : Button :=
  ((levels.map Sample.level).foldl State.samplePin { idle with cfg := { idle.cfg with edge := edge, dbn := dbn } }).button

/-- L2-E1, E2. -/
theorem test_first_level_is_no_edge :
    (sampled .any 1#4 [true]).pend = false ∧ (sampled .any 1#4 [true, false]).pend = true ∧
    (sampled .any 1#4 [true, false]).plevel = false := by decide +kernel

/-- L2-E4. -/
theorem test_debounce_three :
    (sampled .any 3#4 [false, false, false, true, true, false, true, true]).pend = false ∧
    (sampled .any 3#4 [false, false, false, true, true, false, true, true, true]).pend = true := by decide +kernel

/-- L2-E6. -/
theorem test_edge_filter :
    (sampled .rising 1#4 [false, true]).pend = true ∧ (sampled .falling 1#4 [false, true]).pend = false := by
  decide +kernel

/-- L2-F2. -/
theorem test_cfg_write : cfgWord (idle.hostWrite 0x000003#24 0xFFFFFFFF#32).cfg = 0x000000F9#32 := by decide +kernel

/-- L2-F4, F5. -/
theorem test_host_writes_while_busy :
    ((starting idle .nop []).hostWrite 0x000003#24 0x9#32).status.herr = true ∧
    ((starting idle .nop []).hostWrite 0x000000#24 0#32).status.ovr = true := by decide +kernel

/-- L2-F14. -/
theorem test_cfgmem_write :
    ((idle.hostWrite 0x010003#24 0x12345678#32).hostRead 0x010003#24).history.getLast? =
      some (.hostRead 0x010003#24 0x12345678#32 false) := by decide +kernel

/-- L2-F13. -/
theorem test_caps : csrRead idle 5 = 1024#32 ∧ csrRead idle 6 = 256#32 := by decide +kernel

/-- L2-G5. -/
theorem test_reset_in_wait :
    statusWord ((waiting (edgePending true)).driveReset true) = 0#32 ∧
    cfgWord ((waiting (edgePending true)).driveReset true).cfg = 0x08#32 := by decide +kernel

/-- The first instruction after reset: FCC_FLUSH on a closed bus ends with BusUnavailable (L2-A14). -/
theorem test_withFetchWord : (stepped (idle.withFetchWord 32 0x31000000)).status.err = some .busUnavailable := by
  decide +kernel

/-! ## Witnesses: the hypotheses of the statements can be met -/

/-- A state whose next turn is `t`. -/
def onTurn (s : State) (t : Turn) : State := { s with world := { s.world with turns := [t] } }

theorem witness_EncodeOfDecode : decode 0x3500000A#32 = .ok (.fccBurstRead 10#24) := by decide

theorem witness_StepRunsDecodedCommand :
    (starting up .fccFlush []).world.inReset = false ∧ (starting up .fccFlush []).world.turns = .ce 200 :: [] ∧
    (starting up .fccFlush []).ce = some (Flight.start (encode .fccFlush)) ∧
    decode (Flight.start (encode .fccFlush)).word = .ok .fccFlush := by decide +kernel

/-- A word that is no command, latched. -/
def latched (w : Word) : State := { onTurn idle (.ce 0) with ce := some (Flight.start w) }

theorem witness_IllegalWordEndsWithIllegalCommand :
    (latched 0x20010000#32).world.inReset = false ∧ (latched 0x20010000#32).world.turns = .ce 0 :: [] ∧
    decode (Flight.start 0x20010000#32).word = .error .reservedBitSet ∧ opcodeOfWord 0x20010000#32 = 0x20#8 ∧
    decode (Flight.start 0x21FFFFFF#32).word = .error .reservedBitSet ∧ opcodeOfWord 0x21FFFFFF#32 = 0x21#8 ∧
    decode (Flight.start 0xFF000000#32).word = .error .unknownOpcode := by decide +kernel

theorem witness_StepOfOtherAgents :
    (onTurn idle (.sample (.level true))).world.turns = .sample (.level true) :: [] ∧
    (onTurn idle (.hostRead 0xFFFFFF#24)).world.turns = .hostRead 0xFFFFFF#24 :: [] ∧
    (onTurn idle (.hostWrite 0#24 0#32)).world.turns = .hostWrite 0#24 0#32 :: [] ∧
    (onTurn idle (.resetInput true)).world.turns = .resetInput true :: [] ∧
    (onTurn idle (.ce 0)).world.turns = .ce 0 :: [] ∧ (onTurn idle (.ce 0)).ce = none ∧
    idle.world.inReset = false ∧
    (onTurn (idle.driveReset true) (.ce 3)).world.inReset = true ∧
    (onTurn (idle.driveReset true) (.ce 3)).world.turns = .ce 3 :: [] := by decide +kernel

/-- A transfer of which the first turn makes one step. -/
def cutTransfer : State :=
  { starting up (.sbXferByte 0x3C#8) (oks [0xA5#8]) with
    world := { up.world with turns := [.ce 0, .ce 1], answers := oks [0xA5#8] } }

theorem witness_EngineTurnsCompose :
    exec (.sbXferByte 0x3C#8) cutTransfer = .next (after (.sbXferByte 0x3C#8) cutTransfer) ∧
    exec (.sbXferByte 0x3C#8) (after (.sbXferByte 0x3C#8) cutTransfer) =
      .next (after (.sbXferByte 0x3C#8) (after (.sbXferByte 0x3C#8) cutTransfer)) :=
  ⟨exec_after (by decide +kernel), exec_after (by decide +kernel)⟩

theorem witness_NopCompletes : Starts .nop 1 (starting idle .nop []) := by decide +kernel

theorem witness_BusOpenCompletes :
    Starts (.busOpen 3#2) 7 (starting idle (.busOpen 3#2) (oks [0#8, 0#8])) ∧
    (starting idle (.busOpen 3#2) (oks [0#8, 0#8])).world.answersOk 2 ∧
    Starts (.busOpen 0#2) 7 (starting idle (.busOpen 0#2) []) := by decide +kernel

theorem witness_BusOpenFails :
    Starts (.busOpen 3#2) 6 (starting idle (.busOpen 3#2) [.failure]) ∧
    ((starting idle (.busOpen 3#2) [.failure]).world.answerAt 0).isOk = false ∧
    ((starting idle (.busOpen 3#2) [.ok 0#8, .failure]).world.answerAt 0).isOk = true ∧
    ((starting idle (.busOpen 3#2) [.ok 0#8, .failure]).world.answerAt 1).isOk = false ∧
    Starts (.busOpen 2#2) 6 (starting idle (.busOpen 2#2) [.unavailable]) ∧ (2#2).getLsbD 0 = false ∧
    (2#2).getLsbD 1 = true ∧ idle.bus.rbUp = false ∧ idle.bus.sbUp = false ∧
    ((starting idle (.busOpen 2#2) [.unavailable]).world.answerAt 0).isOk = false := by decide +kernel

theorem witness_BusCloseCompletes : Starts (.busClose 3#2) 8 (starting selected (.busClose 3#2) []) := by
  decide +kernel

/-- The last address of 8-bit mode; 16-bit mode takes every address. -/
theorem witness_RbWriteCompletes :
    Starts (.rbWrite 0x00FF#16 0x20#8) 4 (starting up (.rbWrite 0x00FF#16 0x20#8) (oks [0#8])) ∧
    hiByte 0x00FF#16 = 0#8 ∧ up.bus.rbUp = true ∧
    (starting up (.rbWrite 0x00FF#16 0x20#8) (oks [0#8])).world.answersOk 1 ∧
    Starts (.rbWrite 0xFFFF#16 0xFF#8) 4 (starting (wide up) (.rbWrite 0xFFFF#16 0xFF#8) (oks [0#8])) ∧
    (wide up).cfg.aw = true := by decide +kernel

theorem witness_RbReadCompletes :
    Starts (.rbRead 0x00FF#16) 4 (starting up (.rbRead 0x00FF#16) (oks [0x5A#8])) ∧ hiByte 0x00FF#16 = 0#8 ∧
    up.bus.rbUp = true ∧ (starting up (.rbRead 0x00FF#16) (oks [0x5A#8])).world.answersOk 1 := by decide +kernel

/-- The first address too wide for 8-bit mode, the last that is not. -/
theorem witness_RegisterBusErrorOrder :
    Starts (.rbRead 0x0100#16) 4 (starting idle (.rbRead 0x0100#16) []) ∧ idle.cfg.aw = false ∧
    hiByte 0x0100#16 ≠ 0#8 ∧
    Starts (.rbWrite 0x00FF#16 0#8) 4 (starting idle (.rbWrite 0x00FF#16 0#8) []) ∧ hiByte 0x00FF#16 = 0#8 ∧
    idle.bus.rbUp = false ∧
    Starts (.rbWrite 0x00FF#16 0#8) 4 (starting up (.rbWrite 0x00FF#16 0#8) [.failure]) ∧ up.bus.rbUp = true ∧
    ((starting up (.rbWrite 0x00FF#16 0#8) [.failure]).world.answerAt 0).rbError = some .ioFailure ∧
    ((starting up (.rbRead 0x00FF#16) [.unavailable]).world.answerAt 0).rbError = some .busUnavailable := by
  decide +kernel

theorem witness_SerialTransfersComplete :
    up.bus.sbUp = true ∧ Starts (.sbXferByte 0x3C#8) 3 (starting up (.sbXferByte 0x3C#8) (oks [0xA5#8])) ∧
    (starting up (.sbXferByte 0x3C#8) (oks [0xA5#8])).world.answersOk 1 ∧
    Starts (.sbXferWord 0x8155#16) 4 (starting up (.sbXferWord 0x8155#16) (oks [0x12#8, 0x34#8])) ∧
    (starting up (.sbXferWord 0x8155#16) (oks [0x12#8, 0x34#8])).world.answersOk 2 := by decide +kernel

theorem witness_SbCsCompletes : Starts (.sbCs 1#1) 3 (starting up (.sbCs 1#1) []) ∧ up.bus.sbUp = true := by
  decide +kernel

theorem witness_SerialPrimitiveErrors :
    Starts (.sbCs 1#1) 4 (starting idle (.sbCs 1#1) []) ∧ idle.bus.sbUp = false ∧
    Starts (.sbXferByte 0#8) 4 (starting up (.sbXferByte 0#8) [.failure]) ∧ up.bus.sbUp = true ∧
    ((starting up (.sbXferByte 0#8) [.failure]).world.answerAt 0).isOk = false ∧
    Starts (.sbXferWord 0x8155#16) 4 (starting up (.sbXferWord 0x8155#16) [.ok 0x12#8, .failure]) ∧
    ((starting up (.sbXferWord 0x8155#16) [.ok 0x12#8, .failure]).world.answerAt 0).isOk = true ∧
    ((starting up (.sbXferWord 0x8155#16) [.ok 0x12#8, .failure]).world.answerAt 1).isOk = false := by decide +kernel

theorem witness_CfgApplyWritesListInOrder :
    Starts (.cfgApply 0#16) (7 + 9 * 2) (starting listOfL11 (.cfgApply 0#16) (oks [0#8, 0#8])) ∧
    listOfL11.bus.rbUp = true ∧ ListEntries (starting listOfL11 (.cfgApply 0#16) (oks [0#8, 0#8])) 0 2 ∧
    SentinelAt (starting listOfL11 (.cfgApply 0#16) (oks [0#8, 0#8])) (0 + 2) ∧
    (starting listOfL11 (.cfgApply 0#16) (oks [0#8, 0#8])).world.answersOk 2 ∧
    SentinelAt (withWords up 255 [0x00FF00FF#32]) (255 + 0) := by decide +kernel

/-- The last word of CFGMEM (L2-C8), a malformed entry (L2-C4), a failed write (L2-C9), a base beyond CFGMEM (L2-A16). -/
theorem witness_CfgApplyErrorsCountEntries :
    Starts (.cfgApply 256#16) (9 + 9 * 0) (starting idle (.cfgApply 256#16) []) ∧ idle.bus.rbUp = false ∧
    Starts (.cfgApply 255#16) (9 + 9 * 1) (starting (withWords up 255 [0x00200010#32]) (.cfgApply 255#16) (oks [0#8])) ∧
    ListEntries (withWords up 255 [0x00200010#32]) 255 1 ∧
    (withWords up 255 [0x00200010#32]).params.cfgWords ≤ 255 + 1 ∧
    ListEntries (withWords up 0 [0x00200010#32, 0x00000110#32]) 0 1 ∧
    entryMalformed up.cfg.aw ((withWords up 0 [0x00200010#32, 0x00000110#32]).cfgWordAt (0 + 1)) = true ∧
    ListEntries listOfL11 0 (1 + 1) ∧
    (starting listOfL11 (.cfgApply 0#16) [.ok 0#8, .failure]).world.answersOk 1 ∧
    ((starting listOfL11 (.cfgApply 0#16) [.ok 0#8, .failure]).world.answerAt 1).rbError = some .ioFailure := by
  decide +kernel

theorem witness_CfgReadReplacesValues :
    Starts (.cfgRead 0#16) (7 + 10 * 2) (starting listOfL11 (.cfgRead 0#16) (oks [0x21#8, 0x31#8])) ∧
    listOfL11.bus.rbUp = true ∧ ListEntries (starting listOfL11 (.cfgRead 0#16) (oks [0x21#8, 0x31#8])) 0 2 ∧
    SentinelAt (starting listOfL11 (.cfgRead 0#16) (oks [0x21#8, 0x31#8])) (0 + 2) ∧
    (starting listOfL11 (.cfgRead 0#16) (oks [0x21#8, 0x31#8])).world.answersOk 2 := by decide +kernel

theorem witness_CfgReadErrorsCountEntries :
    Starts (.cfgRead 256#16) (9 + 10 * 0) (starting idle (.cfgRead 256#16) []) ∧ idle.bus.rbUp = false ∧
    Starts (.cfgRead 255#16) (9 + 10 * 1) (starting (withWords up 255 [0x00200010#32]) (.cfgRead 255#16) (oks [0#8])) ∧
    ListEntries (withWords up 255 [0x00200010#32]) 255 1 ∧
    (withWords up 255 [0x00200010#32]).params.cfgWords ≤ 255 + 1 ∧
    Starts (.cfgRead 0#16) (9 + 10 * 1) (starting listOfL11 (.cfgRead 0#16) [.ok 0x99#8, .failure]) ∧
    ListEntries listOfL11 0 (1 + 1) ∧
    ((starting listOfL11 (.cfgRead 0#16) [.ok 0x99#8, .failure]).world.answerAt 1).rbError = some .ioFailure ∧
    entryMalformed up.cfg.aw ((withWords up 0 [0x00200010#32, 0x00000110#32]).cfgWordAt (0 + 1)) = true := by
  decide +kernel

/-- The sentinels of both widths and a word that is one in no width. -/
theorem witness_SentinelNeedsBothFields :
    entryMalformed false 0x00FF00FF#32 = false ∧ isSentinel false 0x00FF00FF#32 = true ∧
    entryMalformed true 0x00FFFFFF#32 = false ∧ isSentinel true 0x00FFFFFF#32 = true ∧
    isSentinel true 0x00FF00FF#32 = false := by decide

/-- A self-test that passes at its first attempt. -/
def passesFirst : State := starting up (.fccSelfTest 0#16) (oks [0#8, 0#8, 0#8, 0x55#8])

/-- A self-test that passes at its second attempt after a failed transfer (L2-D19). -/
def passesSecond : State := starting up (.fccSelfTest 2#16) [.ok 0#8, .failure, .ok 0#8, .ok 0#8, .ok 0#8, .ok 0x55#8]

theorem witness_SelfTestPassesAfterMismatches :
    Starts (.fccSelfTest 0#16) (13 + 14 * 0) passesFirst ∧
    attemptOutcome passesFirst.world passesFirst.params (attemptStart passesFirst.world 0) = none ∧
    Starts (.fccSelfTest 2#16) (13 + 14 * 1) passesSecond ∧ passesSecond.bus.sbUp = true ∧
    passesSecond.bus.cs = false ∧ 1 < (2#16).toNat ∧
    (∀ j < 1, attemptOutcome passesSecond.world passesSecond.params (attemptStart passesSecond.world j) ≠ none) ∧
    attemptOutcome passesSecond.world passesSecond.params (attemptStart passesSecond.world 1) = none := by
  decide +kernel

/-- A self-test of two attempts: a mismatch, then a failed transfer (L2-D20). -/
def givesUp : State := starting up (.fccSelfTest 2#16) [.ok 0#8, .ok 0#8, .ok 0#8, .ok 0x54#8, .failure]

theorem witness_SelfTestGivesUp :
    Starts (.fccSelfTest 2#16) (15 + 14 * 1) givesUp ∧ givesUp.bus.sbUp = true ∧ givesUp.bus.cs = false ∧
    (2#16).toNat = 1 + 1 ∧
    (∀ j ≤ 1, attemptOutcome givesUp.world givesUp.params (attemptStart givesUp.world j) ≠ none) ∧
    attemptOutcome givesUp.world givesUp.params (attemptStart givesUp.world 0) = some .protocolMismatch ∧
    attemptOutcome givesUp.world givesUp.params (attemptStart givesUp.world 1) = some .ioFailure := by decide +kernel

theorem witness_FlushAndTriggerComplete :
    up.bus.sbUp = true ∧ up.bus.cs = false ∧ (starting up .fccFlush (oks [0#8, 0#8])).world.answersOk 2 ∧
    Starts .fccFlush 9 (starting (fifo .done up) .fccFlush (oks [0#8, 0#8])) ∧ (fifo .done up).fst ≠ .capturing ∧
    Starts .fccTrigger 9 (starting up .fccTrigger (oks [0#8, 0#8])) ∧ up.fst = .idle := by decide +kernel

theorem witness_PollDoneCompletes :
    Starts .fccPollDone 10 (starting (fifo .capturing up) .fccPollDone (oks [0#8, 0x08#8])) ∧
    (fifo .capturing up).bus.sbUp = true ∧ (fifo .capturing up).bus.cs = false ∧
    (starting (fifo .capturing up) .fccPollDone (oks [0#8, 0x08#8])).world.answersOk 2 := by decide +kernel

theorem witness_ReadLenCompletes :
    Starts .fccReadLen 15 (starting up .fccReadLen (oks [0#8, 0xFF#8, 0#8, 0xFF#8, 0#8, 0xFF#8])) ∧
    (starting up .fccReadLen (oks [0#8, 0xFF#8, 0#8, 0xFF#8, 0#8, 0xFF#8])).world.answersOk 6 := by decide +kernel

/-- The command of a burst of two bytes into a capacity of two. -/
def burstOfTwo : State :=
  starting (fifo .done up) (.fccBurstRead 2#24) (oks [0#8, 2#8, 0#8, 0#8, 0#8, 0#8, 0#8, 0xA0#8, 0xA1#8])

theorem witness_BurstReadFillsBuffer :
    (lengthAt burstOfTwo.world 0).toNat = 2 ∧ Starts (.fccBurstRead 2#24) (25 + 4 * 2) burstOfTwo ∧
    (2#24).toNat ≤ burstOfTwo.params.bufBytes ∧ burstOfTwo.bus.sbUp = true ∧ burstOfTwo.bus.cs = false ∧
    burstOfTwo.fst = .done ∧ burstOfTwo.world.answersOk (7 + 2) ∧ 2 ≤ (2#24).toNat := by decide +kernel

/-- FCC_SINGLECAPTURE with one poll that finds the done bit clear and a length of two over a capacity of one
(L2-D24). -/
def overflowing : State :=
  starting up (.fccSingleCapture 1#24)
    (oks [0#8, 0#8, 0#8, 0#8, 0#8, 0x00#8, 0#8, 0x08#8, 0#8, 2#8, 0#8, 0#8, 0#8, 0#8])

theorem witness_BurstReadOverflow :
    Starts (.fccBurstRead 1#24) 18 (starting (fifo .done up) (.fccBurstRead 1#24) (oks [0#8, 2#8, 0#8, 0#8, 0#8, 0#8])) ∧
    (1#24).toNat ≤ up.params.bufBytes ∧ (fifo .done up).fst = .done ∧
    (starting up (.fccBurstRead 1#24) (oks [0#8, 2#8, 0#8, 0#8, 0#8, 0#8])).world.answersOk 6 ∧
    (1#24).toNat < (lengthAt (starting up (.fccBurstRead 1#24) (oks [0#8, 2#8, 0#8, 0#8, 0#8, 0#8])).world 0).toNat ∧
    Starts (.fccSingleCapture 1#24) (34 + 7 * 1) overflowing ∧ overflowing.fst ≠ .capturing ∧
    overflowing.world.answersOk (12 + 2 * 1) ∧
    (∀ j < 1, overflowing.world.byteAt (5 + 2 * j) &&& overflowing.params.capDoneMask = 0#8) ∧
    overflowing.world.byteAt (5 + 2 * 1) &&& overflowing.params.capDoneMask ≠ 0#8 ∧
    (1#24).toNat < (lengthAt overflowing.world (6 + 2 * 1)).toNat := by decide +kernel

/-- The command of P3: one poll that finds the done bit clear, four bytes into a capacity of four. -/
def captureStarts : State :=
  starting up (.fccSingleCapture 4#24)
    (oks [0#8, 0#8, 0#8, 0#8, 0#8, 0x00#8, 0#8, 0x08#8, 0#8, 0x04#8, 0#8, 0x00#8, 0#8, 0x00#8, 0#8, 0xDE#8, 0xAD#8,
      0xBE#8, 0xEF#8])

theorem witness_SingleCaptureFillsBuffer :
    (lengthAt captureStarts.world (6 + 2 * 1)).toNat = 4 ∧
    Starts (.fccSingleCapture 4#24) (41 + 7 * 1 + 4 * 4) captureStarts ∧
    (4#24).toNat ≤ captureStarts.params.bufBytes ∧ captureStarts.bus.sbUp = true ∧ captureStarts.bus.cs = false ∧
    captureStarts.fst ≠ .capturing ∧ captureStarts.world.answersOk (6 + 2 * 1 + 7 + 4) ∧
    (∀ j < 1, captureStarts.world.byteAt (5 + 2 * j) &&& captureStarts.params.capDoneMask = 0#8) ∧
    captureStarts.world.byteAt (5 + 2 * 1) &&& captureStarts.params.capDoneMask ≠ 0#8 ∧ 4 ≤ (4#24).toNat := by
  decide +kernel

theorem witness_RegisterCommandsComplete :
    Starts (.fccWriteReg 0x04#8 0x02#8) 7 (starting up (.fccWriteReg 0x04#8 0x02#8) (oks [0#8, 0#8])) ∧
    Starts (.fccReadReg 0x85#8) 7 (starting up (.fccReadReg 0x85#8) (oks [0#8, 0x3A#8])) ∧
    (starting up (.fccReadReg 0x85#8) (oks [0#8, 0x3A#8])).world.answersOk 2 ∧ up.bus.sbUp = true ∧
    up.bus.cs = false := by decide +kernel

theorem witness_BitCommandsComplete :
    up.bus.sbUp = true ∧ up.bus.cs = false ∧
    (starting up (.fccSetBit 0x03#8 0x10#8) (oks [0#8, 1#8, 0#8, 0#8])).world.answersOk 4 ∧
    Starts (.fccSetBit 0x03#8 0x10#8) 11 (starting up (.fccSetBit 0x03#8 0x10#8) (oks [0#8, 1#8, 0#8, 0#8])) ∧
    Starts (.fccClrBit 0x03#8 0xFF#8) 11 (starting up (.fccClrBit 0x03#8 0xFF#8) (oks [0#8, 1#8, 0#8, 0#8])) ∧
    Starts (.fccGetBit 0x41#8 0x0C#8) 7 (starting up (.fccGetBit 0x41#8 0x0C#8) [.ok 0#8, .ok 8#8, .failure]) ∧
    (starting up (.fccGetBit 0x41#8 0x0C#8) [.ok 0#8, .ok 8#8, .failure]).world.answersOk 2 := by
  decide +kernel

/-- The four checks: a capacity one above BUF_BYTES, a closed bus, chip select asserted, the FIFO state. -/
theorem witness_FccCheckOrder :
    Starts (.fccSingleCapture 1025#24) 4 (starting idle (.fccSingleCapture 1025#24) []) ∧
    isFcc (.fccSingleCapture 1025#24) = true ∧
    (Instr.fccSingleCapture 1025#24).wellFormed idle.cfg.aw idle.params.bufBytes = false ∧
    (Instr.fccSingleCapture 1024#24).wellFormed idle.cfg.aw idle.params.bufBytes = true ∧ idle.bus.sbUp = false ∧
    selected.bus.sbUp = true ∧ selected.bus.cs = true ∧
    fifoStateAllows .fccFlush (fifo .capturing up).fst = false ∧ up.bus.sbUp = true ∧ up.bus.cs = false := by
  decide +kernel

/-- A self-test of one attempt whose transfer number `j` fails. -/
def selfTestCut (j : Nat) : State :=
  starting up (.fccSelfTest 1#16) ((List.replicate j (Answer.ok 0#8)) ++ [.failure])

theorem witness_FccFirstTransferFailure :
    isFcc (.fccBurstRead 1024#24) = true ∧
    Starts (.fccBurstRead 1024#24) 8 (starting (fifo .done up) (.fccBurstRead 1024#24) [.failure]) ∧
    (Instr.fccBurstRead 1024#24).wellFormed up.cfg.aw up.params.bufBytes = true ∧ up.bus.sbUp = true ∧
    up.bus.cs = false ∧ fifoStateAllows (.fccBurstRead 1024#24) (fifo .done up).fst = true ∧
    ((starting up (.fccBurstRead 1024#24) [.failure]).world.answerAt 0).isOk = false ∧
    ∀ j < 4, Starts (.fccSelfTest 1#16) 13 (selfTestCut j) ∧ (selfTestCut j).world.answersOk j ∧
      ((selfTestCut j).world.answerAt j).isOk = false := by decide +kernel

/-- A command whose transfer number `k` fails. -/
def cutAt (s : State) (i : Instr) (k : Nat) : State :=
  starting s i ((List.replicate k (Answer.ok 0x08#8)) ++ [.unavailable])

/-- Every clause: the second transfer of each command's frame (L2-D4), the write-back of the bit commands, the second
length read (L2-D13). -/
theorem witness_FccFailedFrameEndsCommand :
    up.bus.sbUp = true ∧ up.bus.cs = false ∧ frameOk (cutAt up .fccFlush 1).world 0 = false ∧
    Starts .fccFlush 8 (cutAt (fifo .done up) .fccFlush 1) ∧ (fifo .done up).fst ≠ .capturing ∧
    Starts .fccTrigger 8 (cutAt up .fccTrigger 1) ∧ up.fst = .idle ∧
    Starts .fccPollDone 7 (cutAt up .fccPollDone 1) ∧
    Starts (.fccWriteReg 4#8 2#8) 7 (cutAt up (.fccWriteReg 4#8 2#8) 1) ∧
    Starts (.fccReadReg 5#8) 7 (cutAt up (.fccReadReg 5#8) 1) ∧
    frameOk (cutAt up (.fccSetBit 3#8 0x10#8) 3).world 0 = true ∧
    frameOk (cutAt up (.fccSetBit 3#8 0x10#8) 3).world 2 = false ∧
    Starts (.fccSetBit 3#8 0x10#8) 11 (cutAt up (.fccSetBit 3#8 0x10#8) 3) ∧
    Starts (.fccClrBit 3#8 0x10#8) 11 (cutAt up (.fccClrBit 3#8 0x10#8) 3) ∧
    lengthOk (cutAt up .fccReadLen 3).world 0 = false ∧ Starts .fccReadLen 15 (cutAt up .fccReadLen 3) ∧
    Starts (.fccBurstRead 1024#24) 17 (cutAt (fifo .done up) (.fccBurstRead 1024#24) 3) ∧
    (1024#24).toNat ≤ up.params.bufBytes := by decide +kernel

/-- FCC_SINGLECAPTURE with `misses = 1`, cut at transfer number `k`. -/
def captureCut (k : Nat) : State :=
  starting up (.fccSingleCapture 4#24)
    (((oks [0#8, 0#8, 0#8, 0#8, 0#8, 0x00#8, 0#8, 0x08#8, 0#8, 0x02#8, 0#8, 0x00#8, 0#8, 0x00#8, 0#8, 0xDE#8]).take k) ++
      [.failure])

/-- Every stage: the flush, the trigger (L2-D23), the second poll, the first length read, the second byte of the burst
frame (L2-D16). -/
theorem witness_CaptureFailureStages :
    (4#24).toNat ≤ up.params.bufBytes ∧ up.bus.sbUp = true ∧ up.bus.cs = false ∧ up.fst ≠ .capturing ∧
    (∀ k < 16, Starts (.fccSingleCapture 4#24) (39 + 7 * 1 + 4 * 2) (captureCut k) ∧
      Starts (.fccSingleCapture 4#24) (33 + 7 * 1) (captureCut k)) ∧
    frameOk (captureCut 1).world 0 = false ∧
    (captureCut 3).world.answersOk 2 ∧ frameOk (captureCut 3).world 2 = false ∧
    (captureCut 7).world.answersOk (4 + 2 * 1) ∧ frameOk (captureCut 7).world (4 + 2 * 1) = false ∧
    (∀ j < 1, (captureCut 7).world.byteAt (5 + 2 * j) &&& up.params.capDoneMask = 0#8) ∧
    (captureCut 9).world.answersOk (6 + 2 * 1) ∧ lengthOk (captureCut 9).world (6 + 2 * 1) = false ∧
    (captureCut 9).world.byteAt (5 + 2 * 1) &&& up.params.capDoneMask ≠ 0#8 ∧
    (captureCut 16).world.answersOk (12 + 2 * 1 + 2) ∧ ((captureCut 16).world.answerAt (12 + 2 * 1 + 2)).isOk = false ∧
    (∀ j < 1, (captureCut 16).world.byteAt (5 + 2 * j) &&& up.params.capDoneMask = 0#8) ∧
    (captureCut 16).world.byteAt (5 + 2 * 1) &&& up.params.capDoneMask ≠ 0#8 ∧
    2 ≤ (lengthAt (captureCut 16).world (6 + 2 * 1)).toNat ∧
    (lengthAt (captureCut 16).world (6 + 2 * 1)).toNat ≤ (4#24).toNat ∧
    Starts (.fccBurstRead 4#24) (23 + 4 * 1)
      (starting (fifo .done up) (.fccBurstRead 4#24) ((oks [0#8, 2#8, 0#8, 0#8, 0#8, 0#8, 0#8]) ++ [.failure])) ∧
    (starting (fifo .done up) (.fccBurstRead 4#24) ((oks [0#8, 2#8, 0#8, 0#8, 0#8, 0#8, 0#8]) ++ [.failure])).world.answersOk
      (6 + 1) ∧
    1 ≤ (lengthAt (starting (fifo .done up) (.fccBurstRead 4#24)
      ((oks [0#8, 2#8, 0#8, 0#8, 0#8, 0#8, 0#8]) ++ [.failure])).world 0).toNat := by decide +kernel

/-- The position in flight of FCC_BURSTREAD in front of the store of the second of two bytes. -/
def burstFlight : Flight :=
  { Flight.start (encode (.fccBurstRead 2#24)) with pos := 23, k := 1, len := 2#23, v := 0xA1#8 }

/-- FCC_BURSTREAD in the middle of its burst frame. -/
def midBurst : State :=
  { starting (fifo .done up) (.fccBurstRead 2#24) [] with
    ce := some burstFlight
    bus := { rbUp := true, sbUp := true, cs := true } }

theorem midBurst_sound : burstFlight.Sound (progOf midBurst.params (.fccBurstRead 2#24)) midBurst where
  inside := by decide
  busChecked := forall_operand (by decide)
  capacityChecked := forall_operand (by decide)
  lengthChecked := fun _ op hop cap hcap =>
    of_decide_eq_true (forall_operand (P := fun cap => decide (burstFlight.len.toNat ≤ cap.toNat)) (by decide) op hop cap
      hcap)
  released := by decide
  csFramed := by decide
  byteCounted := by decide
  entryInside := by decide
  errorHeld := by decide

/-- At the start of a command and in the middle of a frame. -/
theorem witness_FccEndsWithChipSelectReleased :
    isFcc (.fccBurstRead 2#24) = true ∧
    (burstOfTwo.ce = some (Flight.start (encode (.fccBurstRead 2#24))) ∧ burstOfTwo.bus.cs = false ∧
      exec (.fccBurstRead 2#24) burstOfTwo = .next (after (.fccBurstRead 2#24) burstOfTwo) ∧
      (after (.fccBurstRead 2#24) burstOfTwo).ce = none) ∧
    midBurst.ce = some burstFlight ∧ burstFlight.Sound (progOf midBurst.params (.fccBurstRead 2#24)) midBurst ∧
    (progOf midBurst.params (.fccBurstRead 2#24)).csChecked burstFlight.pos = true ∧
    exec (.fccBurstRead 2#24) midBurst = .next (after (.fccBurstRead 2#24) midBurst) ∧
    (after (.fccBurstRead 2#24) midBurst).ce = none :=
  ⟨by decide, ⟨rfl, rfl, exec_after (by decide +kernel), by decide +kernel⟩, rfl, midBurst_sound, by decide,
    exec_after (by decide +kernel), by decide +kernel⟩

/-- In the middle of a burst the next byte is stored. -/
theorem witness_CaptureWritesBelowCapacity :
    midBurst.ce = some burstFlight ∧ burstFlight.Sound (progOf midBurst.params (.fccBurstRead 2#24)) midBurst ∧
    exec (.fccBurstRead 2#24) midBurst = .next (after (.fccBurstRead 2#24) midBurst) ∧
    (after (.fccBurstRead 2#24) midBurst).bufByte 1 = 0xA1#8 :=
  ⟨rfl, midBurst_sound, exec_after (by decide +kernel), by decide +kernel⟩

/-- The hypothesis of CommandsKeepMemories, CommandsKeepBusState, CommandsKeepTheRest and, with the command still in
flight or ended, of ResultOnlyAtCompletion. -/
theorem witness_CommandsKeep :
    exec .fccFlush (starting up .fccFlush (oks [0#8, 0#8])) = .next (doCmd up .fccFlush (oks [0#8, 0#8])) ∧
    (doCmd up .fccFlush (oks [0#8, 0#8])).ce = none ∧
    exec (.sbXferByte 0x3C#8) cutTransfer = .next (after (.sbXferByte 0x3C#8) cutTransfer) ∧
    (after (.sbXferByte 0x3C#8) cutTransfer).ce ≠ none :=
  ⟨exec_after (by decide +kernel), by decide +kernel, exec_after (by decide +kernel), by decide +kernel⟩

/-- FCC_TRIGGER in front of its change of FST, its frame recorded, one atomic step to make. -/
def frontOfChange : State :=
  { starting up .fccTrigger [] with
    ce := some { Flight.start (encode .fccTrigger) with pos := 7 }
    history := writeFrame 0x04#8 0x02#8 0#8 0#8
    world := { up.world with turns := [.ce 0] } }

/-- At the start of a command and in front of the change itself. -/
theorem witness_FifoStateTransitions :
    (∀ c ∈ fstChanges testParams .fccTrigger,
      c.Holds (Flight.start (encode .fccTrigger)) (starting up .fccTrigger (oks [0#8, 0#8]))) ∧
    (∀ c ∈ fstChanges testParams .fccTrigger,
      c.Holds { Flight.start (encode .fccTrigger) with pos := 7 } frontOfChange) ∧
    frontOfChange.world.moreSteps = 0 ∧ exec .fccTrigger frontOfChange = .next (after .fccTrigger frontOfChange) ∧
    (after .fccTrigger frontOfChange).fst = .capturing := by
  refine ⟨?_, ?_, rfl, exec_after (by decide +kernel), by decide +kernel⟩
  · exact fun c _ => FstChange.holds_start c _ _
  · intro c hc
    obtain rfl := List.mem_singleton.1 hc
    exact ⟨fun _ _ => by decide, fun _ _ => ⟨0#8, 0#8, by decide, fun _ => trivial⟩, fun _ _ => trivial⟩

/-- The positions that `fstChanges` names are where the pseudocode starts a frame and writes FST. -/
theorem test_fstChanges_positions :
    [Instr.fccFlush, .fccTrigger, .fccPollDone, .fccSingleCapture 4#24].all (fun i =>
      (fstChanges testParams i).all (fun c =>
        decide ((progOf testParams i).code[c.change]? = some (.setFst c.target)) &&
        decide ((progOf testParams i).code[c.start]? = some (.cs true)))) = true := by decide +kernel

theorem witness_ResetValues :
    (burstOfTwo.driveReset true).world.inReset = true ∧ burstOfTwo.world.inReset = false ∧
    burstOfTwo.ce ≠ none := by decide +kernel

/-- A sample that is accepted as an edge and one that is not accepted. -/
theorem witness_SamplerStep :
    (sampled .any 1#4 [false, true]).pend = true ∧ (sampled .any 2#4 [false, true]).dlevel = none := by decide +kernel

theorem witness_DebounceCountsEqualSamples :
    idle.button.cand ≠ some true ∧ idle.button.dlevel ≠ some true ∧
    (∀ x ∈ [Sample.level true, .invalid, .level true], x = .level true ∨ x = .invalid) := by decide

theorem witness_BtnArmDiscardsStaleEdge : Starts .btnArmWait 1 (starting (edgePending true) .btnArmWait []) := by
  decide +kernel

theorem witness_BtnWaitReturnsNewLevel :
    (waiting idle).ce = some { Flight.start (encode .btnArmWait) with pos := 1 } ∧ idle.button.pend = false ∧
    (waiting (edgePending false)).ce = some { Flight.start (encode .btnArmWait) with pos := 1 } ∧
    (edgePending false).button.pend = true := by decide +kernel

/-- Every value of the EDGE field, written over a stored 1 (R36, R37). -/
theorem witness_CfgWriteSetsFields :
    idle.busy = false ∧ (0x00#32).extractLsb' 1 2 = 0#2 ∧ (0x02#32).extractLsb' 1 2 = 1#2 ∧
    (0x04#32).extractLsb' 1 2 = 2#2 ∧ (0x06#32).extractLsb' 1 2 = 3#2 ∧
    [0x00#32, 0x02#32, 0x04#32, 0x06#32].map
      (fun w => ((idle.hostWrite 0x000003#24 0x02#32).hostWrite 0x000003#24 w).cfg.edge) =
        [.any, .rising, .falling, .rising] := by decide +kernel

/-- STATUS in every error, FIFO state and button state, from the tables of R300 and R33. -/
theorem witness_CsrReadsAndIgnoredWrites :
    (0x000001#24).toNat < 0x10 ∧
    [none, some Err.busUnavailable, some .ioFailure, some .protocolMismatch, some .bufferOverflow, some .illegalCommand,
      some .illegalState, some .malformedEntry, some .listOverrun].map
        (fun e => csrRead { idle with status := { idle.status with err := e } } 1) =
      [0x00#32, 0x10#32, 0x20#32, 0x30#32, 0x40#32, 0x50#32, 0x60#32, 0x70#32, 0x80#32] ∧
    [Fst.idle, .capturing, .done].map (fun x => csrRead (fifo x idle) 1) = [0x000#32, 0x100#32, 0x200#32] ∧
    [Bst.armed, .pressed].map (fun x => csrRead { idle with button := { idle.button with bst := x } } 1) =
      [0x000#32, 0x400#32] := by decide +kernel

theorem witness_host_idle_and_busy : idle.busy = false ∧ (starting idle .nop []).busy = true := by decide +kernel

/-- The boundary addresses of the CSRs, of CFGMEM and of the BUF window. -/
theorem witness_host_addresses :
    (0x00000F#24).toNat < 0x10 ∧ (0x010000#24).toNat = 0x10000 + 0 ∧ 0 < idle.params.cfgWords ∧
    (0x0100FF#24).toNat = 0x10000 + 255 ∧ 255 < idle.params.cfgWords ∧
    (0x400000#24).toNat = 0x400000 + 0 ∧ (0x4000FF#24).toNat = 0x400000 + 255 ∧ 4 * 255 < idle.params.bufBytes := by
  decide +kernel

theorem witness_UnmappedAccesses :
    [0x000010#24, 0x00FFFF#24, 0x010100#24, 0x3FFFFF#24, 0x400100#24, 0xFFFFFF#24].all
      (fun a => decide (0x10 ≤ a.toNat ∧
        ¬ (0x10000 ≤ a.toNat ∧ a.toNat < 0x10000 + idle.params.cfgWords) ∧
        ¬ (0x400000 ≤ a.toNat ∧ 4 * (a.toNat - 0x400000) < idle.params.bufBytes))) = true := by decide +kernel

theorem witness_OnlyTheEngineDrivesTheBuses :
    (onTurn idle (.sample .invalid)).world.turns = .sample .invalid :: [] ∧
    step (onTurn idle (.sample .invalid)) = .next (stepped (onTurn idle (.sample .invalid))) :=
  ⟨rfl, rfl⟩

/-- A state with a command in flight that meets the invariant. -/
theorem witness_StepKeepsInvariant : (starting up (.rbRead 0x10#16) []).Inv where
  cfgmemWf := by decide
  bufWf := by decide
  cfgmemBound := by decide
  bufBound := by decide
  bufLenBound := by decide
  busyClean := by decide
  csNeedsBus := by decide
  pendPressed := by decide
  runLevel := by decide
  levelFromRun := by decide
  flightSound := by
    intro f i hf _
    cases hf
    exact Flight.start_sound _ _ _
  fstJustified := by
    intro f i hf _ c _
    cases hf
    exact FstChange.holds_start _ _ _

end Sys2Proof.Tests
end

/-! # The turns of the agents (00_scope.md R6)

What the step does with the turn at the front, said once for each kind of turn; and what the turns of the agents other
than the command engine add to the history. -/

namespace Sys2Proof.Machine

/-! ## The step, turn by turn -/

section
variable {s : State} {rest : List Turn}

/-- A state with a decided turn takes no free one. -/
theorem State.ready_of_turns {turn : Turn} (h : s.world.turns = turn :: rest) : s.ready = s := by
  simp only [State.ready, World.ready, h]

/-- A turn that is not the engine's is its agent's, inside reset and outside. -/
theorem step_otherTurn {turn : Turn} (h : s.world.turns = turn :: rest) (hne : ∀ more, turn ≠ .ce more) :
    step s = .next (s.otherTurn turn) := by
  rw [step, State.ready_of_turns h, takeTurn, h]
  cases turn with
  | ce more => exact absurd rfl (hne more)
  | sample _ | hostRead _ | hostWrite _ _ | resetInput _ => rfl

/-- The engine makes its step outside reset. -/
theorem step_engineTurn {more : Nat} (h : s.world.turns = .ce more :: rest) (hr : s.world.inReset = false) :
    step s = engineTurn s := by
  rw [step, State.ready_of_turns h, takeTurn, h]
  simp only [hr, Bool.false_eq_true, if_false]

/-- While the reset input is asserted the engine's turn passes (R340). -/
theorem step_ce_inReset {more : Nat} (h : s.world.turns = .ce more :: rest) (hr : s.world.inReset = true) :
    step s = .next s.dropTurn := by
  rw [step, State.ready_of_turns h, takeTurn, h]
  simp only [hr, if_true, State.otherTurn]

/-- An idle engine makes no step (R342). -/
theorem engineTurn_idle (h : s.ce = none) : engineTurn s = .next s.dropTurn := by
  simp only [engineTurn, State.fetch, h]

/-- While the reset input is asserted no agent steps and host accesses have no effect (R340). -/
theorem State.otherTurn_inReset {turn : Turn} (hr : s.world.inReset = true) (hne : ∀ b, turn ≠ .resetInput b) :
    s.otherTurn turn = s.dropTurn := by
  cases turn with
  | resetInput b => exact absurd rfl (hne b)
  | ce _ => rfl
  | sample _ | hostRead _ | hostWrite _ _ => exact if_pos hr

/-- Every turn but that of the reset input passes while the reset input is asserted (R340). -/
theorem step_inReset {turn : Turn} (h : s.world.turns = turn :: rest) (hr : s.world.inReset = true)
    (hne : ∀ b, turn ≠ .resetInput b) : step s = .next s.dropTurn := by
  cases turn with
  | ce _ => exact step_ce_inReset h hr
  | sample _ | hostRead _ | hostWrite _ _ | resetInput _ =>
    rw [step_otherTurn h nofun, State.otherTurn_inReset hr hne]

/-- The turn of an idle engine passes, inside reset and outside. -/
theorem step_ce_idle {more : Nat} (h : s.world.turns = .ce more :: rest) (hce : s.ce = none) :
    step s = .next s.dropTurn := by
  cases hr : s.world.inReset with
  | true => exact step_ce_inReset h hr
  | false => rw [step_engineTurn h hr, engineTurn_idle hce]

end

/-! ## What the other agents record -/

section
variable (s : State)

/-- The sampler records nothing. -/
@[simp] theorem State.samplePin_history (v : Sample) : (s.samplePin v).history = s.history := by
  cases v <;> rfl

/-- Reset keeps the history (R341). -/
@[simp] theorem State.driveReset_history (b : Bool) : (s.driveReset b).history = s.history := by
  unfold State.driveReset
  split <;> rfl

/-- A host read records one event: itself, with the value read and whether it was refused. -/
theorem State.hostRead_history (a : HAddr) :
    ∃ w refused, (s.hostRead a).history = s.history ++ [.hostRead a w refused] := by
  unfold State.hostRead State.readDone State.readRefused
  split
  case h_1 => exact ⟨_, _, rfl⟩
  case h_2 | h_3 => split <;> exact ⟨_, _, rfl⟩
  case h_4 => exact ⟨_, _, rfl⟩

/-- A host write to a CSR records one event: itself, with its outcome. -/
theorem State.writeCsr_history (index : Nat) (a : HAddr) (w : Word) :
    ∃ outcome, (s.writeCsr index a w).history = s.history ++ [.hostWrite a w outcome] := by
  unfold State.writeCsr State.writeCmd State.writeStatus State.writeCfg State.writeRefused
  split
  case h_1 | h_3 => split <;> exact ⟨_, rfl⟩
  case h_2 | h_4 => exact ⟨_, rfl⟩

/-- A host write records one event: itself, with its outcome. -/
theorem State.hostWrite_history (a : HAddr) (w : Word) :
    ∃ outcome, (s.hostWrite a w).history = s.history ++ [.hostWrite a w outcome] := by
  unfold State.hostWrite State.writeRefused
  split
  case h_1 => exact s.writeCsr_history _ a w
  case h_2 => split <;> exact ⟨_, rfl⟩
  case h_3 | h_4 => exact ⟨_, rfl⟩

/-- The bus trace of a longer history. -/
@[simp] theorem busTrace_append (l₁ l₂ : List Event) : busTrace (l₁ ++ l₂) = busTrace l₁ ++ busTrace l₂ :=
  List.filter_append ..

/-- A host read is no bus event. -/
theorem State.hostRead_busTrace (a : HAddr) : busTrace (s.hostRead a).history = busTrace s.history := by
  obtain ⟨w, refused, h⟩ := s.hostRead_history a
  rw [h, busTrace_append]
  exact List.append_nil _

/-- A host write is no bus event. -/
theorem State.hostWrite_busTrace (a : HAddr) (w : Word) : busTrace (s.hostWrite a w).history = busTrace s.history := by
  obtain ⟨outcome, h⟩ := s.hostWrite_history a w
  rw [h, busTrace_append]
  exact List.append_nil _

/-- An agent other than the engine puts nothing on the buses. -/
theorem State.otherTurn_busTrace (turn : Turn) : busTrace (s.otherTurn turn).history = busTrace s.history := by
  cases turn with
  | ce _ => rfl
  | sample v => rw [State.otherTurn]; split <;> simp
  | hostRead a => rw [State.otherTurn]; split <;> simp [State.hostRead_busTrace]
  | hostWrite a w => rw [State.otherTurn]; split <;> simp [State.hostWrite_busTrace]
  | resetInput b => simp [State.otherTurn]

end

/-! ## The statements -/

/-- Settles O56: a turn that is not the engine's is `State.otherTurn`, which adds at most a host access. -/
theorem onlyTheEngineDrivesTheBuses : Obligations.OnlyTheEngineDrivesTheBuses := by
  intro s t turn rest hne hturns hstep
  rw [step_otherTurn hturns hne] at hstep
  cases hstep
  exact s.otherTurn_busTrace turn

/-- Settles O7, turn by turn; inside reset every turn but that of the reset input passes. -/
theorem stepOfOtherAgents : Obligations.StepOfOtherAgents := by
  intro s rest
  refine ⟨fun v hr h => ?sample, fun a hr h => ?hostRead, fun a w hr h => ?hostWrite,
    fun _ h => step_otherTurn h nofun, fun _ h hce => step_ce_idle h hce, fun _ hr h hne => step_inReset h hr hne⟩
  case sample | hostRead | hostWrite =>
    rw [step_otherTurn h nofun]
    simp only [State.otherTurn, hr, Bool.false_eq_true, if_false]

end Sys2Proof.Machine

/-! # What the commands write and what they leave alone (10_state.md)

Each operation of the pseudocode writes at most one of six pieces of state; a command leaves alone every piece that no
operation of its pseudocode writes. -/

namespace Sys2Proof.Machine

/-! ## The pieces of state and the commands that write them -/

/-- A piece of state that some commands write and the others leave alone (R42 to R44, R47, R48). -/
inductive Piece where
  /-- CFGMEM. -/
  | cfgmem
  /-- BUF and BUFLEN. -/
  | buffer
  /-- FST. -/
  | fst
  /-- RBUP and SBUP. -/
  | up
  /-- CS. -/
  | cs
  /-- BST and the sampler's state. -/
  | button
  deriving DecidableEq

/-- The piece that an operation writes. -/
def Op.writes : Op → Option Piece
  | .writeBack => some .cfgmem
  | .storeByte | .startBuffer | .setBufLen => some .buffer
  | .setFst _ => some .fst
  | .setUp _ _ => some .up
  | .cs _ | .csRelease => some .cs
  | .arm | .awaitEdge => some .button
  | _ => none

/-- The pieces that a command may write. -/
def writesOf : Instr → List Piece
  | .nop | .rbWrite _ _ | .rbRead _ | .sbXferByte _ | .sbXferWord _ | .cfgApply _ => []
  | .busOpen _ => [.up]
  | .busClose _ => [.up, .cs]
  | .sbCs _ => [.cs]
  | .cfgRead _ => [.cfgmem]
  | .fccSelfTest _ | .fccReadLen | .fccWriteReg _ _ | .fccReadReg _ | .fccSetBit _ _ | .fccClrBit _ _ |
    .fccGetBit _ _ => [.cs]
  | .fccFlush | .fccTrigger | .fccPollDone => [.cs, .fst]
  | .fccBurstRead _ => [.cs, .buffer]
  | .fccSingleCapture _ => [.cs, .fst, .buffer]
  | .btnArmWait => [.button]

theorem cfgmem_mem_writesOf {i : Instr} : .cfgmem ∈ writesOf i ↔ ∃ base, i = .cfgRead base := by
  cases i <;> simp [writesOf]

theorem buffer_mem_writesOf {i : Instr} :
    .buffer ∈ writesOf i ↔ (∃ cap, i = .fccBurstRead cap) ∨ ∃ cap, i = .fccSingleCapture cap := by
  cases i <;> simp [writesOf]

theorem fst_mem_writesOf {i : Instr} :
    .fst ∈ writesOf i ↔ i = .fccFlush ∨ i = .fccTrigger ∨ i = .fccPollDone ∨ ∃ cap, i = .fccSingleCapture cap := by
  cases i <;> simp [writesOf]

theorem up_mem_writesOf {i : Instr} :
    .up ∈ writesOf i ↔ (∃ m, i = .busOpen m) ∨ ∃ m, i = .busClose m := by
  cases i <;> simp [writesOf]

theorem cs_mem_writesOf {i : Instr} :
    .cs ∈ writesOf i ↔ (∃ a, i = .sbCs a) ∨ (∃ m, i = .busClose m) ∨ isFcc i = true := by
  cases i <;> simp [writesOf, isFcc]

theorem button_mem_writesOf {i : Instr} : .button ∈ writesOf i ↔ i = .btnArmWait := by
  cases i <;> simp [writesOf]

/-- The operations of a command write its pieces only. -/
theorem progOf_writes (q : Params) (i : Instr) :
    ∀ op ∈ (progOf q i).code, ∀ x ∈ op.writes, x ∈ writesOf i := by
  have check : ((progOf q i).code.all fun op => op.writes.all (writesOf i).contains) = true := by
    cases i with
    | busOpen m =>
      simp only [progOf, busOpenProg]
      cases m.getLsbD 0 <;> cases m.getLsbD 1 <;> rfl
    | busClose m =>
      simp only [progOf, busCloseProg]
      cases m.getLsbD 0 <;> cases m.getLsbD 1 <;> rfl
    | _ => rfl
  intro op hop x hx
  exact List.contains_iff_mem.1 (forall_operand check op hop x hx)

/-- An operation that does not write FST leaves it alone. -/
theorem runOp_keeps_fst {op : Op} (hw : op.writes ≠ some .fst) (p : Prog) (f : Flight) (s : State) :
    (runOp p f s op).fst = s.fst :=
  runOp_fst_frame p f s op (by rintro _ rfl; exact hw rfl)

/-- What no operation but the writers of a piece changes, a command that does not write the piece leaves alone. -/
theorem exec_keeps {α : Type} {i : Instr} {s t : State} {x : Piece} (get : State → α) (h : exec i s = .next t)
    (hx : x ∉ writesOf i) (hdrop : get s.dropTurn = get s)
    (hop : ∀ p f s' op, op.writes ≠ some x → get (runOp p f s' op) = get s') : get t = get s :=
  exec_induct (Q := fun s' => get s' = get s) h hdrop fun _ _ op hq _ _ hmem =>
    (hop _ _ _ _ fun hw => hx (progOf_writes _ _ op hmem _ hw)).trans hq

section
variable {i : Instr} {s t : State} (h : exec i s = .next t)
include h

theorem exec_keeps_cfgmem (hx : .cfgmem ∉ writesOf i) : t.cfgmem = s.cfgmem :=
  exec_keeps State.cfgmem h hx rfl fun p f s' op hw =>
    runOp_cfgmem_frame p f s' op (by rintro rfl; exact hw rfl)

theorem exec_keeps_buf (hx : .buffer ∉ writesOf i) : t.buf = s.buf :=
  exec_keeps State.buf h hx rfl fun p f s' op hw =>
    runOp_buf_frame p f s' op (by rintro rfl; exact hw rfl)

theorem exec_keeps_bufLen (hx : .buffer ∉ writesOf i) : t.bufLen = s.bufLen :=
  exec_keeps State.bufLen h hx rfl fun p f s' op hw =>
    runOp_bufLen_frame p f s' op (by rintro rfl; exact hw rfl) (by rintro rfl; exact hw rfl)

theorem exec_keeps_fst (hx : .fst ∉ writesOf i) : t.fst = s.fst :=
  exec_keeps State.fst h hx rfl fun p f s' _ hw => runOp_keeps_fst hw p f s'

theorem exec_keeps_up (hx : .up ∉ writesOf i) (b : Bus) : t.bus.up b = s.bus.up b :=
  exec_keeps (fun s' => s'.bus.up b) h hx rfl fun p f s' op hw =>
    runOp_up_frame p f s' op (by rintro _ _ rfl; exact hw rfl) b

theorem exec_keeps_cs (hx : .cs ∉ writesOf i) : t.bus.cs = s.bus.cs :=
  exec_keeps (fun s' => s'.bus.cs) h hx rfl fun p f s' op hw =>
    runOp_cs_frame p f s' op (by rintro _ rfl; exact hw rfl) (by rintro rfl; exact hw rfl)

theorem exec_keeps_button (hx : .button ∉ writesOf i) : t.button = s.button :=
  exec_keeps State.button h hx rfl fun p f s' op hw =>
    runOp_button_frame p f s' op (by rintro rfl; exact hw rfl) (by rintro rfl; exact hw rfl)

/-- No command writes the parameters, CFG, the reset input or the number of resets. -/
theorem exec_const_frame : t.params = s.params ∧ t.cfg = s.cfg ∧ t.world.inReset = s.world.inReset ∧
    t.world.epoch = s.world.epoch :=
  exec_induct (Q := fun s' => s'.params = s.params ∧ s'.cfg = s.cfg ∧ s'.world.inReset = s.world.inReset ∧
      s'.world.epoch = s.world.epoch) h ⟨rfl, rfl, rfl, rfl⟩ <| by
    intro s' f op ⟨hparams, hcfg, hreset, hepoch⟩ _ _ _
    obtain ⟨oparams, ocfg, oreset, _, oepoch⟩ := runOp_const_frame (progOf s.params i) f s' op
    exact ⟨oparams.trans hparams, ocfg.trans hcfg, oreset.trans hreset, oepoch.trans hepoch⟩

/-- A command only adds events (R52). -/
theorem exec_history_grows : s.history <+: t.history :=
  exec_induct (Q := fun s' => s.history <+: s'.history) h ⟨[], List.append_nil _⟩
    fun s' f op hq _ _ _ => hq.trans (runOp_history_frame _ f s' op)

end

/-! ## Memories and buses -/

/-- Settles O38: CFGMEM, BUF and BUFLEN are kept by the commands that do not write them, and a byte that is not written
reads as the free value of the same reset. -/
theorem commandsKeepMemories : Obligations.CommandsKeepMemories := by
  intro i s t h
  obtain ⟨_, _, _, hepoch⟩ := exec_const_frame h
  refine ⟨fun hi a => ?_, fun hburst hcapture => ?_⟩
  · have hx : .cfgmem ∉ writesOf i := fun hx => (cfgmem_mem_writesOf.1 hx).elim hi
    rw [State.cfgByte, State.cfgByte, exec_keeps_cfgmem h hx, hepoch]
  · have hx : .buffer ∉ writesOf i := fun hx =>
      (buffer_mem_writesOf.1 hx).elim (fun hb => hb.elim hburst) (fun hc => hc.elim hcapture)
    refine ⟨fun k => ?_, exec_keeps_bufLen h hx⟩
    rw [State.bufByte, State.bufByte, exec_keeps_buf h hx, hepoch]

/-- Settles O39: the buses and chip select are kept by the commands that do not write them. -/
theorem commandsKeepBusState : Obligations.CommandsKeepBusState := by
  intro i s t h
  refine ⟨fun hopen hclose => ?_, fun hcs hclose hfcc => exec_keeps_cs h fun hx => ?_⟩
  · have hx : .up ∉ writesOf i := fun hx =>
      (up_mem_writesOf.1 hx).elim (fun ho => ho.elim hopen) (fun hc => hc.elim hclose)
    exact ⟨exec_keeps_up h hx .rb, exec_keeps_up h hx .sb⟩
  · rcases cs_mem_writesOf.1 hx with ⟨a, hi⟩ | ⟨m, hi⟩ | hi
    · exact hcs a hi
    · exact hclose m hi
    · rw [hfcc] at hi; cases hi

/-! ## STATUS, RESULT and the button -/

/-- Going on after a primitive changes nothing but the flight. -/
theorem State.settle_status (s : State) (p : Prog) (f : Flight) (err : Option Err) (f' : Flight) :
    (s.settle p f err f').status = s.status := by
  cases err <;> rfl

/-- An operation leaves STATUS alone or is the completion, which writes CDONE and ERR (R308). -/
theorem runOp_status_cases (p : Prog) (f : Flight) (s : State) (op : Op) :
    (runOp p f s op).status = s.status ∨
      ∃ err, (runOp p f s op).status = { s.status with cdone := true, err := err } := by
  have hraise : ∀ e, (s.raise p f e).status = { s.status with cdone := true, err := some e } := by
    intro e
    obtain ⟨_, _, _, _, _, _, _, _, _, _, hstatus⟩ := s.raise_frame p f e
    exact hstatus
  cases op with
  | raiseIf c e =>
    rw [runOp_raiseIf]
    split
    · exact .inr ⟨_, hraise e⟩
    · exact .inl rfl
  | reraise =>
    rw [runOp_reraise]
    split
    · exact .inr ⟨_, hraise _⟩
    · exact .inl rfl
  | complete x => exact .inr ⟨none, rfl⟩
  | awaitEdge =>
    rw [runOp_awaitEdge, State.takeEdge]
    split
    · exact .inr ⟨none, rfl⟩
    · exact .inl rfl
  | rbWrite _ _ | rbWriteEntry | rbRead _ | rbReadEntry | xfer _ _ | busOpen _ =>
    exact .inl (State.settle_status _ p f _ _)
  | failIf _ _ | skipIf _ _ | csRelease | readEntry | writeBack | storeByte =>
    simp only [runOp, State.ceReadCfg, State.ceWriteCfg, State.ceWriteBuf]
    split <;> exact .inl rfl
  | _ => exact .inl rfl

/-- The debounced level, the run and the edge's level are the sampler's alone (R46, R273). -/
theorem runOp_sampler_frame (p : Prog) (f : Flight) (s : State) (op : Op) :
    (runOp p f s op).button.dlevel = s.button.dlevel ∧ (runOp p f s op).button.cand = s.button.cand ∧
    (runOp p f s op).button.cnt = s.button.cnt ∧ (runOp p f s op).button.plevel = s.button.plevel := by
  by_cases harm : op = .arm
  · subst harm
    exact ⟨rfl, rfl, rfl, rfl⟩
  by_cases hawait : op = .awaitEdge
  · subst hawait
    rw [runOp_awaitEdge, State.takeEdge]
    split <;> exact ⟨rfl, rfl, rfl, rfl⟩
  · rw [runOp_button_frame p f s op harm hawait]
    exact ⟨rfl, rfl, rfl, rfl⟩

section
variable {i : Instr} {s t : State} (h : exec i s = .next t)
include h

/-- No command writes OVR or HERR. -/
theorem exec_sticky_frame : t.status.ovr = s.status.ovr ∧ t.status.herr = s.status.herr :=
  exec_induct (Q := fun s' => s'.status.ovr = s.status.ovr ∧ s'.status.herr = s.status.herr) h ⟨rfl, rfl⟩ <| by
    intro s' f op hq _ _ _
    rcases runOp_status_cases (progOf s.params i) f s' op with hstatus | ⟨err, hstatus⟩ <;>
      rw [hstatus] <;> exact hq

/-- No command writes the sampler's part of the button state. -/
theorem exec_sampler_frame : t.button.dlevel = s.button.dlevel ∧ t.button.cand = s.button.cand ∧
    t.button.cnt = s.button.cnt ∧ t.button.plevel = s.button.plevel :=
  exec_induct (Q := fun s' => s'.button.dlevel = s.button.dlevel ∧ s'.button.cand = s.button.cand ∧
      s'.button.cnt = s.button.cnt ∧ s'.button.plevel = s.button.plevel) h ⟨rfl, rfl, rfl, rfl⟩ <| by
    intro s' f op hq _ _ _
    obtain ⟨hdlevel, hcand, hcnt, hplevel⟩ := runOp_sampler_frame (progOf s.params i) f s' op
    rw [hdlevel, hcand, hcnt, hplevel]
    exact hq

/-- What is in flight after a command's turn is the command that was in flight (R45). -/
theorem exec_keeps_word {f : Flight} (hf : t.ce = some f) : ∃ g, s.ce = some g ∧ f.word = g.word :=
  exec_induct (Q := fun s' => ∀ f, s'.ce = some f → ∃ g, s.ce = some g ∧ f.word = g.word) h
    (fun f hf => ⟨f, hf, rfl⟩) (by
      intro s' f' op hq _ hf' _ f hf
      obtain ⟨g, hg, hword⟩ := hq f' hf'
      rcases runOp_ce_frame (progOf s.params i) hf' op with hnone | ⟨f'', hsome, hword'⟩
      · rw [hnone] at hf
        cases hf
      · rw [hsome] at hf
        cases hf
        exact ⟨g, hg, hword'.trans hword⟩) f hf

/-- RESULT and STATUS keep their values while a command runs; when it ends CDONE is 1 (R308). -/
theorem exec_completion_frame :
    (t.ce ≠ none → t.result = s.result ∧ t.status = s.status) ∧ (t.ce = none → t.status.cdone = true) := by
  have hbusy : s.dropTurn.ce ≠ none := by
    rw [exec_eq_runCommand] at h
    obtain ⟨f, hf, _⟩ := runCommand_next h
    rw [State.dropTurn_ce, hf]
    exact Option.some_ne_none f
  refine exec_induct (Q := fun s' => (s'.ce ≠ none → s'.result = s.result ∧ s'.status = s.status) ∧
    (s'.ce = none → s'.status.cdone = true)) h ⟨fun _ => ⟨rfl, rfl⟩, fun hidle => absurd hidle hbusy⟩ ?_
  intro s' f op ⟨hkept, _⟩ _ hf _
  obtain ⟨hrunning, hended⟩ := runOp_completion_frame (progOf s.params i) hf op
  obtain ⟨hresult, hstatus⟩ := hkept (hf ▸ Option.some_ne_none f)
  refine ⟨fun hce => ?_, hended⟩
  obtain ⟨hr, hs⟩ := hrunning hce
  exact ⟨hr.trans hresult, hs.trans hstatus⟩

end

/-- Settles O40, from the frame lemmas of a command's turn. -/
theorem commandsKeepTheRest : Obligations.CommandsKeepTheRest := by
  intro i s t h
  obtain ⟨hparams, hcfg, hreset, hepoch⟩ := exec_const_frame h
  obtain ⟨hovr, hherr⟩ := exec_sticky_frame h
  exact ⟨hcfg, hparams, hovr, hherr, fun hi => exec_keeps_button h fun hx => hi (button_mem_writesOf.1 hx),
    exec_sampler_frame h, exec_history_grows h, hreset, hepoch, fun _ hf => exec_keeps_word h hf⟩

/-- Settles O42: only the completion step writes RESULT and STATUS, and irq is CDONE under IE. -/
theorem resultOnlyAtCompletion : Obligations.ResultOnlyAtCompletion := by
  intro i s t h
  obtain ⟨_, hcfg, _, _⟩ := exec_const_frame h
  obtain ⟨hrunning, hended⟩ := exec_completion_frame h
  refine ⟨fun hce => ?_, fun hce => ⟨hended hce, ?_⟩⟩
  · obtain ⟨hresult, hstatus⟩ := hrunning hce
    exact ⟨hresult, hstatus, by rw [State.irq, State.irq, hstatus, hcfg]⟩
  · rw [State.irq, hended hce, hcfg, Bool.true_and]

/-- Settles O5: outside reset a turn of the engine is its step, and the word it fetches is the latched one. -/
theorem stepRunsDecodedCommand : Obligations.StepRunsDecodedCommand := by
  intro s f i more rest hr hturns hce hdecode
  rw [step_engineTurn hturns hr]
  simp only [engineTurn, State.fetch, hce, hdecode]

/-! ## The transitions of FST: one atomic step (R213, R214) -/

/-- The state that an operation takes FST to. -/
def Op.fstSet : Op → Option Fst
  | .setFst x => some x
  | _ => none

theorem Op.writes_fst {op : Op} (h : op.writes = some .fst) : ∃ x, op = .setFst x := by
  cases op with
  | setFst x => exact ⟨x, rfl⟩
  | _ => cases h

/-- Every assignment to FST in the operations stands in the list of changes, with its position and its target. -/
def fstListed (ops : List Op) (changes : List FstChange) : Bool :=
  ops.zipIdx.all fun (op, pos) => op.fstSet.all fun x => changes.any fun c => c.change == pos && c.target == x

theorem exists_change_of_fstListed {ops : List Op} {changes : List FstChange} {pos : Nat} {x : Fst}
    (h : fstListed ops changes = true) (hop : ops[pos]? = some (.setFst x)) :
    ∃ c ∈ changes, c.change = pos ∧ c.target = x := by
  have hat := List.all_eq_true.1 h (.setFst x, pos) (List.mem_zipIdx_iff_getElem?.2 hop)
  simpa [Op.fstSet] using hat

/-- `fstChanges` lists every assignment to FST of a command's pseudocode. -/
theorem exists_fstChange_of_setFst {q : Params} {i : Instr} {pos : Nat} {x : Fst}
    (hop : (progOf q i).code[pos]? = some (.setFst x)) : ∃ c ∈ fstChanges q i, c.change = pos ∧ c.target = x := by
  have hi : .fst ∈ writesOf i := progOf_writes q i _ (List.mem_of_getElem? hop) _ rfl
  refine exists_change_of_fstListed ?_ hop
  rcases fst_mem_writesOf.1 hi with rfl | rfl | rfl | ⟨cap, rfl⟩ <;> rfl

/-- The three changes of FST (R214): by the flush frame, by the trigger frame and by a read of the done bit. -/
inductive FstChange.Known (q : Params) (i : Instr) (c : FstChange) : Prop where
  | flush (hi : i = .fccFlush ∨ ∃ cap, i = .fccSingleCapture cap) (hsources : c.sources = [.idle, .done])
      (htarget : c.target = .idle) (hframe : c.frame = .write q.regFifo q.fifoClearMask)
  | trigger (hi : i = .fccTrigger ∨ ∃ cap, i = .fccSingleCapture cap) (hsources : c.sources = [.idle])
      (htarget : c.target = .capturing) (hframe : c.frame = .write q.regFifo q.fifoStartMask)
  | pollDone (hi : i = .fccPollDone ∨ ∃ cap, i = .fccSingleCapture cap) (hsources : c.sources = [.capturing])
      (htarget : c.target = .done) (hframe : c.frame = .read q.regTrig q.capDoneMask)

/-- A command that changes FST writes it. -/
theorem fst_mem_writesOf_of_fstChange {q : Params} {i : Instr} {c : FstChange} (hc : c ∈ fstChanges q i) :
    .fst ∈ writesOf i := by
  cases i with
  | fccFlush | fccTrigger | fccPollDone | fccSingleCapture _ => simp [writesOf]
  | _ => cases hc

/-- Each change of a command is one of the three, and its guard, its whole frame and its test stand in front of it. -/
theorem fstChange_known {q : Params} {i : Instr} {c : FstChange} (hc : c ∈ fstChanges q i) :
    c.Known q i ∧ c.guard < c.change ∧ c.start + 4 ≤ c.change ∧ c.tested < c.change := by
  rcases fst_mem_writesOf.1 (fst_mem_writesOf_of_fstChange hc) with rfl | rfl | rfl | ⟨cap, rfl⟩ <;>
    simp only [fstChanges, List.mem_cons, List.not_mem_nil, or_false] at hc
  case inl =>
    subst hc
    exact ⟨.flush (.inl rfl) rfl rfl rfl, by simp⟩
  case inr.inl =>
    subst hc
    exact ⟨.trigger (.inl rfl) rfl rfl rfl, by simp⟩
  case inr.inr.inl =>
    subst hc
    exact ⟨.pollDone (.inl rfl) rfl rfl rfl, by simp⟩
  case inr.inr.inr =>
    rcases hc with rfl | rfl | rfl
    · exact ⟨.flush (.inr ⟨cap, rfl⟩) rfl rfl rfl, by simp⟩
    · exact ⟨.trigger (.inr ⟨cap, rfl⟩) rfl rfl rfl, by simp⟩
    · exact ⟨.pollDone (.inr ⟨cap, rfl⟩) rfl rfl rfl, by simp⟩

/-- The events of a frame are four. -/
theorem FstFrame.events_length (frame : FstFrame) (r1 r2 : Byte) : (frame.events r1 r2).length = 4 := by
  cases frame <;> rfl

/-- At the position of a change that is waited for: FST is one of its sources, its whole frame is recorded as answered
and the byte kept calls for it. -/
theorem FstChange.Holds.at_change {q : Params} {i : Instr} {c : FstChange} {f : Flight} {s : State} (h : c.Holds f s)
    (hc : c ∈ fstChanges q i) (hpos : f.pos = c.change) :
    s.fst ∈ c.sources ∧ ∃ r1 r2, lastFrame s.history = c.frame.events r1 r2 ∧ c.frame.keeps r2 f.v ∧
      c.frame.shows f.v := by
  obtain ⟨_, hguard, hframe, htested⟩ := fstChange_known hc
  obtain ⟨r1, r2, hrecorded, hkeeps⟩ := h.recorded (by omega) (by omega)
  rw [List.take_of_length_le (by rw [FstFrame.events_length]; omega)] at hrecorded
  exact ⟨h.source (by omega) (by omega), r1, r2, hrecorded, hkeeps (by omega), h.shown (by omega) (by omega)⟩

/-- A turn of one atomic step is that step. -/
theorem exec_one_step {i : Instr} {s t : State} {f : Flight} (h : exec i s = .next t) (hf : s.ce = some f)
    (hmore : s.world.moreSteps = 0) :
    ∃ op, (progOf s.params i).code[f.pos]? = some op ∧ t = runOp (progOf s.params i) f s.dropTurn op := by
  rw [exec_eq_runCommand] at h
  obtain ⟨g, hg, hp, rfl⟩ := runCommand_next h
  obtain rfl : g = f := Option.some.inj (hg.symm.trans hf)
  rw [hmore]
  exact ⟨_, List.getElem?_eq_getElem hp, ceStep_of_op (s := s.dropTurn) hf (List.getElem?_eq_getElem hp)⟩

/-- One atomic step that changes FST makes a change that its command waits for. -/
theorem exec_one_step_fst {i : Instr} {s t : State} {f : Flight} (h : exec i s = .next t) (hf : s.ce = some f)
    (hmore : s.world.moreSteps = 0) :
    t.fst = s.fst ∨ ∃ c ∈ fstChanges s.params i, f.pos = c.change ∧ t.fst = c.target := by
  obtain ⟨op, hop, rfl⟩ := exec_one_step h hf hmore
  by_cases hw : op.writes = some .fst
  · obtain ⟨x, rfl⟩ := Op.writes_fst hw
    obtain ⟨c, hc, hpos, htarget⟩ := exists_fstChange_of_setFst hop
    exact .inr ⟨c, hc, hpos.symm, htarget.symm⟩
  · exact .inl (runOp_keeps_fst hw _ _ _)

/-! ## The transitions of FST: a whole turn -/

/-- What FST being `x` says about a condition, where it says anything. -/
def Cond.fstValue (x : Fst) : Cond → Option Bool
  | .fstIs y => some (x == y)
  | .not c => (c.fstValue x).map (!·)
  | _ => none

theorem Cond.holds_of_fstValue {f : Flight} {s : State} {c : Cond} {b : Bool} (h : c.fstValue s.fst = some b) :
    c.holds f s = b := by
  induction c generalizing b with
  | fstIs y => exact Option.some.inj h
  | not c ih =>
    obtain ⟨b', hb', rfl⟩ := Option.map_eq_some_iff.1 h
    rw [Cond.holds_not, ih hb']
  | _ => cases h

/-- The positions at which a command can stand after an operation, FST being `x`. -/
def Op.nexts (p : Prog) (x : Fst) (pos : Nat) : Op → List Nat
  | .raiseIf c _ => if c.fstValue x = some true then [] else [pos + 1]
  | .skipIf c count =>
    (if c.fstValue x = some true then [] else [pos + 1]) ++
      if c.fstValue x = some false then [] else [pos + 1 + count]
  | .back count => [pos - count]
  | .complete _ => []
  | .reraise | .awaitEdge => [pos]
  | .readEntry | .writeBack | .storeByte => [pos, pos + 1]
  | .failIf _ _ | .rbWrite _ _ | .rbWriteEntry | .rbRead _ | .rbReadEntry | .xfer _ _ | .busOpen _ =>
    [pos + 1, p.main.length]
  | _ => [pos + 1]

theorem Op.nexts_raiseIf (p : Prog) (x : Fst) (pos : Nat) (c : Cond) (e : Err) :
    (Op.raiseIf c e).nexts p x pos = if c.fstValue x = some true then [] else [pos + 1] := rfl

theorem Op.nexts_skipIf (p : Prog) (x : Fst) (pos : Nat) (c : Cond) (count : Nat) :
    (Op.skipIf c count).nexts p x pos =
      (if c.fstValue x = some true then [] else [pos + 1]) ++
        if c.fstValue x = some false then [] else [pos + 1 + count] := rfl

theorem State.raise_ce (s : State) (p : Prog) (f : Flight) (e : Err) : (s.raise p f e).ce = none := by
  unfold State.raise
  split <;> rfl

/-- After a primitive a command stands at the next operation or at its handler. -/
theorem State.settle_pos {s : State} {p : Prog} {f f' g : Flight} {err : Option Err} (hf' : f'.pos = f.pos)
    (hg : (s.settle p f err f').ce = some g) : g.pos ∈ [f.pos + 1, p.main.length] := by
  cases err <;> cases hg <;> simp [hf']

theorem Flight.keep_pos (f : Flight) (b : Byte) (slot : Slot) : (f.keep b slot).pos = f.pos := by
  cases slot <;> rfl

/-- A memory access stands still outside the memory, else it goes on at the next operation. -/
theorem pos_mem_of_access {c : Prop} [Decidable c] {s s' : State} {f f' g : Flight} (hf : s.ce = some f)
    (hf' : f'.pos = f.pos) (hg : (if c then s'.advance f' else s).ce = some g) : g.pos ∈ [f.pos, f.pos + 1] := by
  split at hg
  · cases hg
    simp [hf']
  · obtain rfl : f = g := Option.some.inj (hf.symm.trans hg)
    exact List.mem_cons_self

/-- Where an operation leaves the command in flight, it stands at one of the operation's next positions. -/
theorem runOp_pos_mem_nexts {p : Prog} {f g : Flight} {s : State} {op : Op} (hf : s.ce = some f)
    (hg : (runOp p f s op).ce = some g) : g.pos ∈ op.nexts p s.fst f.pos := by
  cases op with
  | raiseIf c e =>
    rw [runOp_raiseIf] at hg
    split at hg
    · rw [State.raise_ce] at hg
      cases hg
    · rename_i hc
      cases hg
      rw [Op.nexts_raiseIf, if_neg fun hx => hc (Cond.holds_of_fstValue hx)]
      exact List.mem_singleton_self _
  | skipIf c count =>
    rw [runOp_skipIf] at hg
    rw [Op.nexts_skipIf]
    split at hg <;> rename_i hc <;> cases hg
    · rw [if_neg (c := c.fstValue s.fst = some false) fun hx => by rw [Cond.holds_of_fstValue hx] at hc; cases hc]
      exact List.mem_append_right _ (List.mem_singleton_self _)
    · rw [if_neg (c := c.fstValue s.fst = some true) fun hx => hc (Cond.holds_of_fstValue hx)]
      exact List.mem_append_left _ (List.mem_singleton_self _)
  | failIf c e =>
    rw [runOp_failIf] at hg
    split at hg <;> cases hg
    · exact List.mem_cons_of_mem _ (List.mem_singleton_self _)
    · exact List.mem_cons_self
  | reraise =>
    rw [runOp_reraise] at hg
    split at hg
    · rw [State.raise_ce] at hg
      cases hg
    · obtain rfl : f = g := Option.some.inj (hf.symm.trans hg)
      exact List.mem_singleton_self _
  | awaitEdge =>
    rw [runOp_awaitEdge, State.takeEdge] at hg
    split at hg
    · cases hg
    · obtain rfl : f = g := Option.some.inj (hf.symm.trans hg)
      exact List.mem_singleton_self _
  | csRelease =>
    rw [runOp_csRelease] at hg
    split at hg <;> cases hg <;> exact List.mem_singleton_self _
  | complete x => cases hg
  | readEntry => exact pos_mem_of_access (f' := { f with e := s.cfgWordAt f.i }) hf rfl hg
  | writeBack => exact pos_mem_of_access (f' := f) hf rfl hg
  | storeByte => exact pos_mem_of_access (f' := { f with k := f.k + 1 }) hf rfl hg
  | rbWrite _ _ | rbWriteEntry | busOpen _ => exact State.settle_pos (f' := f) rfl hg
  | rbRead _ | rbReadEntry => exact State.settle_pos (f' := { f with v := s.answer.byte }) rfl hg
  | xfer tx slot => exact State.settle_pos (Flight.keep_pos _ _ _) hg
  | _ =>
    cases hg
    exact List.mem_singleton_self _

/-- From the positions of `S` on, FST being `x`, a command does not reach an assignment to FST. -/
def Prog.keepsFst (p : Prog) (x : Fst) (S : Nat → Bool) : Bool :=
  p.code.zipIdx.all fun (op, pos) => !S pos || (op.writes != some .fst && (op.nexts p x pos).all S)

theorem exec_fst_of_keepsFst {i : Instr} {s t : State} {f : Flight} {S : Nat → Bool} (h : exec i s = .next t)
    (hf : s.ce = some f) (hS : S f.pos = true) (hkeep : (progOf s.params i).keepsFst s.fst S = true) :
    t.fst = s.fst := by
  rw [exec_eq_runCommand] at h
  obtain ⟨_, _, _, rfl⟩ := runCommand_next h
  refine (ceSteps_induct (Q := fun s' => s'.fst = s.fst ∧ ∀ g, s'.ce = some g → S g.pos = true) ?_ _ s.dropTurn
    ⟨rfl, fun g hg => Option.some.inj (hf.symm.trans hg) ▸ hS⟩).1
  intro s' g op ⟨hfst, hpos⟩ hg hop
  have hat := List.all_eq_true.1 hkeep (op, g.pos) (List.mem_zipIdx_iff_getElem?.2 hop)
  simp only [hpos g hg, Bool.not_true, Bool.false_or, Bool.and_eq_true, bne_iff_ne] at hat
  obtain ⟨hkept, hnexts⟩ := hat
  exact ⟨(runOp_keeps_fst hkept _ _ _).trans hfst, fun g' hg' =>
    List.all_eq_true.1 hnexts _ (hfst ▸ runOp_pos_mem_nexts hg hg')⟩

/-- The positions outside the way from a change's guard to the change. -/
def FstChange.clear (c : FstChange) (pos : Nat) : Bool := decide (pos ≤ c.guard) || decide (c.change < pos)

/-- From each state that is no source of the change, the change is not reached from outside the way to it. -/
def FstChange.guarded (c : FstChange) (p : Prog) : Bool :=
  [Fst.idle, .capturing, .done].all fun x => c.sources.contains x || p.keepsFst x c.clear

theorem FstChange.keepsFst_of_guarded {c : FstChange} {p : Prog} (h : c.guarded p = true) {x : Fst}
    (hx : x ∉ c.sources) : p.keepsFst x c.clear = true := by
  have hat := List.all_eq_true.1 h x (by cases x <;> decide)
  simpa [hx] using hat

/-- A command whose FST is no source of a change is not on the way to the change. -/
theorem FstChange.Holds.clear_of_not_source {c : FstChange} {f : Flight} {s : State} (h : c.Holds f s)
    (hs : s.fst ∉ c.sources) : c.clear f.pos = true := by
  by_contra hway
  simp only [FstChange.clear, Bool.or_eq_true, decide_eq_true_eq, not_or] at hway
  exact hs (h.source (by omega) (by omega))

/-- A command whose assignments to FST are all of `y` leaves FST or takes it to `y`. -/
theorem exec_fst_eq_or {i : Instr} {s t : State} {y : Fst} (h : exec i s = .next t)
    (honly : ((progOf s.params i).code.all fun op => op.fstSet.all (· == y)) = true) : t.fst = s.fst ∨ t.fst = y := by
  refine exec_induct (Q := fun s' => s'.fst = s.fst ∨ s'.fst = y) h (.inl rfl) fun s' f op hq _ _ hmem => ?_
  by_cases hw : op.writes = some .fst
  · obtain ⟨x, rfl⟩ := Op.writes_fst hw
    exact .inr (beq_iff_eq.1 (forall_operand honly _ hmem x rfl))
  · rwa [runOp_keeps_fst hw]

/-- A turn of a command with one change of FST leaves FST or makes the change from one of its sources (R214). -/
theorem exec_fst_of_change {i : Instr} {s t : State} {f : Flight} (c : FstChange) (h : exec i s = .next t)
    (hf : s.ce = some f) (hc : c.Holds f s)
    (honly : ((progOf s.params i).code.all fun op => op.fstSet.all (· == c.target)) = true)
    (hguard : c.guarded (progOf s.params i) = true) :
    t.fst = s.fst ∨ (s.fst ∈ c.sources ∧ t.fst = c.target) := by
  by_cases hs : s.fst ∈ c.sources
  · exact (exec_fst_eq_or h honly).imp_right fun ht => ⟨hs, ht⟩
  · exact .inl (exec_fst_of_keepsFst h hf (hc.clear_of_not_source hs) (FstChange.keepsFst_of_guarded hguard hs))

/-- The flush frame is sent in Idle or Done (R216). -/
theorem Fst.ne_capturing_of_mem {x : Fst} (h : x ∈ [Fst.idle, .done]) : x ≠ .capturing := by
  rintro rfl
  simp at h

/-- Settles O41. An atomic step that changes FST stands at a change whose frame is recorded. In a whole turn, where FST
is no source of the change, the guard in front of it ends the way to it. -/
theorem fifoStateTransitions : Obligations.FifoStateTransitions := by
  intro i s t f hf hholds h
  refine ⟨fun hmore => ?_, ?_⟩
  · rcases exec_one_step_fst h hf hmore with hkept | ⟨c, hc, hpos, htarget⟩
    · exact .inl hkept
    obtain ⟨hsource, r1, r2, hframe, hkeeps, hshows⟩ := (hholds c hc).at_change hc hpos
    obtain ⟨hknown, _⟩ := fstChange_known hc
    rw [htarget]
    rcases hknown with ⟨hi, hsrc, htgt, hfr⟩ | ⟨hi, hsrc, htgt, hfr⟩ | ⟨hi, hsrc, htgt, hfr⟩ <;>
      rw [hsrc] at hsource <;> rw [hfr] at hframe hkeeps hshows
    · exact .inr (.inl ⟨hi, Fst.ne_capturing_of_mem hsource, htgt, r1, r2, hframe⟩)
    · exact .inr (.inr (.inl ⟨hi, List.mem_singleton.1 hsource, htgt, r1, r2, hframe⟩))
    · exact .inr (.inr (.inr ⟨hi, List.mem_singleton.1 hsource, htgt, r1, r2, hframe, hkeeps ▸ hshows⟩))
  · by_cases hw : .fst ∈ writesOf i
    swap
    · exact .inl (exec_keeps_fst h hw)
    rcases fst_mem_writesOf.1 hw with rfl | rfl | rfl | ⟨cap, rfl⟩
    · exact (exec_fst_of_change _ h hf (hholds _ List.mem_cons_self) rfl rfl).imp_right fun ⟨hs, ht⟩ =>
        .inl ⟨rfl, Fst.ne_capturing_of_mem hs, ht⟩
    · exact (exec_fst_of_change _ h hf (hholds _ List.mem_cons_self) rfl rfl).imp_right fun ⟨hs, ht⟩ =>
        .inr (.inl ⟨rfl, List.mem_singleton.1 hs, ht⟩)
    · exact (exec_fst_of_change _ h hf (hholds _ List.mem_cons_self) rfl rfl).imp_right fun ⟨hs, ht⟩ =>
        .inr (.inr (.inl ⟨rfl, List.mem_singleton.1 hs, ht⟩))
    · by_cases hstart : f.pos = 0 ∧ s.fst = .capturing
      · obtain ⟨hpos, hfst⟩ := hstart
        exact .inl (exec_fst_of_keepsFst (S := fun pos => decide (pos ≤ 3)) h hf (by rw [hpos]; rfl)
          (by rw [hfst]; rfl))
      · exact .inr (.inr (.inr (.inr ⟨cap, rfl, fun hpos hfst => hstart ⟨hpos, hfst⟩⟩)))

/-! ## Host accesses to the CSRs (R31) -/

section
variable (s : State)

/-- A host read of a CSR records its word and has no other effect. -/
theorem State.hostRead_csr {a : HAddr} (ha : a.toNat < 0x10) :
    s.hostRead a = { s with history := s.history ++ [.hostRead a (csrRead s a.toNat) false] } := by
  rw [State.hostRead, regionOf_csr _ ha]
  rfl

/-- A host write below 0x10 is the write of a CSR. -/
theorem State.hostWrite_csr {a : HAddr} (ha : a.toNat < 0x10) (w : Word) :
    s.hostWrite a w = s.writeCsr a.toNat a w := by
  rw [State.hostWrite, regionOf_csr _ ha]

theorem State.hostWrite_cmd (w : Word) : s.hostWrite 0x000000#24 w = s.writeCmd 0x000000#24 w :=
  s.hostWrite_csr (by decide) w

theorem State.hostWrite_status (w : Word) : s.hostWrite 0x000001#24 w = s.writeStatus 0x000001#24 w :=
  s.hostWrite_csr (by decide) w

theorem State.hostWrite_cfg (w : Word) : s.hostWrite 0x000003#24 w = s.writeCfg 0x000003#24 w :=
  s.hostWrite_csr (by decide) w

/-- A CSR other than CMD, STATUS and CFG ignores a write (R31, R41). -/
theorem State.writeCsr_ignored {index : Nat} (h0 : index ≠ 0) (h1 : index ≠ 1) (h3 : index ≠ 3) (a : HAddr) (w : Word) :
    s.writeCsr index a w = { s with history := s.history ++ [.hostWrite a w .ignored] } := by
  unfold State.writeCsr
  split
  case h_1 => exact absurd rfl h0
  case h_2 => exact absurd rfl h1
  case h_3 => exact absurd rfl h3
  case h_4 => rfl

/-- CMD and the reserved CSRs read 0 (R31, R41). -/
theorem csrRead_reserved {index : Nat} (h : index = 0 ∨ 7 ≤ index) : csrRead s index = 0#32 := by
  unfold csrRead
  split
  case h_7 => rfl
  all_goals omega

end

/-- Settles O47, from the write of CMD in both cases of BUSY. -/
theorem cmdWriteStartsCommand : Obligations.CmdWriteStartsCommand := by
  intro s w
  rw [State.hostWrite_cmd, State.writeCmd]
  refine ⟨s.hostRead_csr (by decide), fun hidle => ?_, fun hidle => ?_, fun hbusy => ?_⟩
  · rw [hidle]
    exact ⟨rfl, rfl⟩
  · rw [hidle]
    rfl
  · rw [hbusy]
    rfl

/-- Settles O48: the write is `Status.writeOneToClear`, and irq needs CDONE. -/
theorem statusWriteOneToClear : Obligations.StatusWriteOneToClear := by
  intro s w
  rw [State.hostWrite_status]
  refine ⟨rfl, fun hcdone => ?_⟩
  simp [State.irq, State.writeStatus, Status.writeOneToClear, hcdone]

/-! ## CFG -/

/-- A field other than 3 is the code of the edge that writing it sets (R36, R37). -/
theorem Edge.code_write (old : Edge) {field : BitVec 2} (h : field ≠ 3#2) : (old.write field).code = field := by
  revert field
  cases old <;> decide

/-- A bit is a field of one bit. -/
theorem ofBool_getLsbD (w : Word) (k : Nat) : BitVec.ofBool (w.getLsbD k) = w.extractLsb' k 1 := by
  apply BitVec.eq_of_getLsbD_eq
  intro j hj
  obtain rfl : j = 0 := by omega
  simp

/-- After a write CFG reads as the low byte of the written word (R36, R37). -/
theorem cfgWord_write (c : Cfg) {w : Word} (h : w.extractLsb' 1 2 ≠ 3#2) : cfgWord (c.write w) = w &&& 0xFF#32 := by
  simp only [cfgWord, Cfg.write, Edge.code_write _ h, ofBool_getLsbD]
  apply BitVec.eq_of_getLsbD_eq
  intro k hk
  simp only [BitVec.getLsbD_append, BitVec.getLsbD_extractLsb', BitVec.getLsbD_and]
  interval_cases k <;> simp

/-- Settles O49, from `Cfg.write` and `Edge.write`. -/
theorem cfgWriteSetsFields : Obligations.CfgWriteSetsFields := by
  intro s w
  rw [State.hostWrite_cfg, State.writeCfg]
  refine ⟨fun hidle => ?_, fun hbusy => ?_⟩
  · refine ⟨s.cfg.write w, by rw [hidle]; rfl, rfl, rfl, rfl, ?_, ?_, ?_, ?_, Edge.code_write _, cfgWord_write _⟩ <;>
      intro hfield <;> rw [Cfg.write, hfield] <;> rfl
  · rw [hbusy]
    rfl

/-! ## What the CSRs read as -/

/-- The fields of the word STATUS reads as that are wider than a bit or coded (R33). -/
theorem statusWord_fields (s : State) :
    (statusWord s).extractLsb' 4 4 = errCode s.status.err ∧ (statusWord s).extractLsb' 8 2 = s.fst.code ∧
    (statusWord s).extractLsb' 10 1 = s.button.bst.code ∧ (statusWord s).extractLsb' 17 15 = 0#15 := by
  simp (disch := decide) only [statusWord, BitVec.extractLsb'_append_eq_of_le, BitVec.extractLsb'_append_eq_of_add_le,
    BitVec.extractLsb'_eq_self, Nat.reduceSub, and_self]

/-- The bits of the word STATUS reads as (R33). -/
theorem statusWord_bits (s : State) :
    (statusWord s).getLsbD 0 = s.busy ∧ (statusWord s).getLsbD 1 = s.status.cdone ∧
    (statusWord s).getLsbD 2 = s.status.ovr ∧ (statusWord s).getLsbD 3 = s.status.herr ∧
    (statusWord s).getLsbD 11 = s.bus.rbUp ∧ (statusWord s).getLsbD 12 = s.bus.sbUp ∧
    (statusWord s).getLsbD 13 = s.bus.cs ∧ (statusWord s).getLsbD 14 = s.button.lvalid ∧
    (statusWord s).getLsbD 15 = s.button.level ∧ (statusWord s).getLsbD 16 = s.button.pend := by
  simp only [statusWord, BitVec.getLsbD_append, BitVec.getLsbD_ofBool, Nat.reduceSub, Nat.reduceLT, if_true, if_false,
    decide_true, Bool.true_and, and_self]

/-- The fields of the word CFG reads as (R36). -/
theorem cfgWord_fields (c : Cfg) :
    (cfgWord c).getLsbD 0 = c.aw ∧ (cfgWord c).extractLsb' 1 2 = c.edge.code ∧
    (cfgWord c).extractLsb' 3 4 = c.dbn ∧ (cfgWord c).getLsbD 7 = c.ie ∧ (cfgWord c).extractLsb' 8 24 = 0#24 := by
  simp (disch := decide) only [cfgWord, BitVec.extractLsb'_append_eq_of_le, BitVec.extractLsb'_append_eq_of_add_le,
    BitVec.extractLsb'_eq_self, BitVec.getLsbD_append, BitVec.getLsbD_ofBool, Nat.reduceSub, Nat.reduceLT, if_true,
    if_false, decide_true, Bool.true_and, and_self]

/-- A code table that agrees with the coding gives the code of the value that is there. -/
theorem code_of_table {α : Type} {n : Nat} {code : α → BitVec n} {table : List (α × BitVec n)} {x : α} {r : BitVec n}
    (hr : r = code x) (htable : ∀ row ∈ table, code row.1 = row.2) : ∀ row ∈ table, x = row.1 → r = row.2 := by
  rintro row hrow rfl
  exact hr.trans (htable row hrow)

/-- BUFLEN reads as its number (R38). -/
theorem bufLenWord_toNat (len : BitVec 24) : (bufLenWord len).toNat = len.toNat :=
  BitVec.toNat_setWidth_of_le (by decide)

/-- CAPS0 reads as BUF_BYTES, which fits in 24 bits (R39). -/
theorem caps0Word_toNat (p : Params) : (caps0Word p).toNat = p.bufBytes := by
  have hlast := p.bufLast.isLt
  rw [caps0Word, BitVec.toNat_setWidth_of_le (by decide), BitVec.toNat_ofNat, Nat.mod_eq_of_lt]
  rw [Params.bufBytes]
  omega

/-- CAPS1 reads as CFG_WORDS, which fits in 17 bits (R40). -/
theorem caps1Word_toNat (p : Params) : (caps1Word p).toNat = p.cfgWords := by
  have hlast := p.cfgLast.isLt
  rw [caps1Word, BitVec.toNat_setWidth_of_le (by decide), BitVec.toNat_ofNat, Nat.mod_eq_of_lt]
  rw [Params.cfgWords]
  omega

/-- Settles O50: the word read is `csrRead`, index by index. -/
theorem csrReadsAndIgnoredWrites : Obligations.CsrReadsAndIgnoredWrites := by
  intro s a w ha
  refine ⟨fun h0 h1 h3 => (s.hostWrite_csr ha w).trans (s.writeCsr_ignored h0 h1 h3 a w), csrRead s a.toNat,
    s.hostRead_csr ha, csrRead_reserved s, ?status, fun h => by rw [h]; rfl, ?cfg,
    fun h => by rw [h]; exact bufLenWord_toNat _, fun h => by rw [h]; exact caps0Word_toNat _,
    fun h => by rw [h]; exact caps1Word_toNat _⟩
  case status =>
    intro h
    rw [h]
    obtain ⟨herr, hfst, hbst, hzero⟩ := statusWord_fields s
    obtain ⟨hbusy, hcdone, hovr, hherr, hrbUp, hsbUp, hcs, hlvalid, hlevel, hpend⟩ := statusWord_bits s
    exact ⟨hbusy, hcdone, hovr, hherr, code_of_table herr (by decide), code_of_table hfst (by decide),
      code_of_table hbst (by decide), hrbUp, hsbUp, hcs, hlvalid, hlevel, hpend, hzero⟩
  case cfg =>
    intro h
    rw [h]
    obtain ⟨haw, hedge, hdbn, hie, hzero⟩ := cfgWord_fields s.cfg
    exact ⟨haw, code_of_table hedge (by decide), hdbn, hie, hzero⟩

end Sys2Proof.Machine

/-! # Turns of the engine in a row (00_scope.md R6, 60_exceptions.md R311)

No operation of the pseudocode looks at the turns that are decided: a turn taken before an atomic step or after it is
the same. -/

namespace Sys2Proof.Machine

section
variable (s : State) (p : Prog) (f : Flight)

theorem Cond.holds_dropTurn (c : Cond) : c.holds f s.dropTurn = c.holds f s := by
  induction c with
  | not c ih => simp only [Cond.holds, ih]
  | _ => rfl

@[simp] theorem State.answer_dropTurn : s.dropTurn.answer = s.answer :=
  World.dropTurn_drawAnswer_fst _

@[simp] theorem State.answered_dropTurn : s.dropTurn.answered = s.answered.dropTurn :=
  congrArg (fun world => { s with world }) (World.dropTurn_drawAnswer_snd _)

theorem State.raise_dropTurn (e : Err) : s.dropTurn.raise p f e = (s.raise p f e).dropTurn := by
  unfold State.raise
  split <;> rfl

theorem State.settle_dropTurn (err : Option Err) (f' : Flight) :
    s.dropTurn.settle p f err f' = (s.settle p f err f').dropTurn := by
  cases err <;> rfl

/-- A primitive that takes an answer, records its event and settles. -/
theorem State.settle_answered_dropTurn (event : Event) (err : Option Err) (f' : Flight) :
    (s.dropTurn.answered.record event).settle p f err f' =
      ((s.answered.record event).settle p f err f').dropTurn := by
  rw [State.answered_dropTurn]
  exact (s.answered.record event).settle_dropTurn p f err f'

/-- Two ways that do not look at the turns, chosen by a condition that does not either. -/
theorem State.ite_dropTurn {c : Prop} [Decidable c] {x y x' y' : State} (hx : x' = x.dropTurn) (hy : y' = y.dropTurn) :
    (if c then x' else y') = (if c then x else y).dropTurn := by
  rw [hx, hy, apply_ite State.dropTurn]

/-- No operation looks at the turns. -/
theorem runOp_dropTurn (op : Op) : runOp p f s.dropTurn op = (runOp p f s op).dropTurn := by
  cases op with
  | raiseIf c e =>
    rw [runOp_raiseIf, Cond.holds_dropTurn]
    exact State.ite_dropTurn (s.raise_dropTurn p f e) rfl
  | failIf c _ | skipIf c _ =>
    simp only [runOp, Cond.holds_dropTurn]
    exact State.ite_dropTurn rfl rfl
  | reraise =>
    simp only [runOp_reraise]
    split
    · exact s.raise_dropTurn p f _
    · rfl
  | rbWrite _ _ | rbWriteEntry | rbRead _ | rbReadEntry | xfer _ _ | busOpen _ =>
    simp only [runOp, State.rbWriteFrame, State.rbReadFrame, State.sbTransfer, State.openBus, State.answer_dropTurn]
    exact s.settle_answered_dropTurn p f _ _ _
  | csRelease | readEntry | writeBack | storeByte | awaitEdge => exact State.ite_dropTurn rfl rfl
  | back _ | complete _ | cs _ | busClose _ | setUp _ _ | delay _ | startList _ | nextEntry | attempt | setFst _
  | assembleLength | startBuffer | setBufLen | arm => rfl

theorem ceStep_dropTurn : ceStep p s.dropTurn = (ceStep p s).dropTurn := by
  unfold ceStep
  rw [State.dropTurn_ce]
  split
  · rfl
  · split
    · rfl
    · exact runOp_dropTurn s p _ _

theorem ceSteps_dropTurn (n : Nat) : ceSteps p n s.dropTurn = (ceSteps p n s).dropTurn := by
  induction n generalizing s with
  | zero => rfl
  | succ n ih => rw [ceSteps, ceStep_dropTurn, ih, ceSteps]

/-- The engine's steps take no turn. -/
theorem ceSteps_turns (n : Nat) : (ceSteps p n s).world.turns = s.world.turns :=
  ceSteps_induct (Q := fun t => t.world.turns = s.world.turns)
    (fun t f op ht _ _ => by
      obtain ⟨_, _, _, hturns, _⟩ := runOp_const_frame p f t op
      exact hturns.trans ht)
    n s rfl

end

section
variable {i : Instr} {s : State} {rest : List Turn}

/-- What a command answers in a turn of `more + 1` atomic steps. -/
theorem exec_next_iff {t : State} {more : Nat} (hturns : s.world.turns = .ce more :: rest) :
    exec i s = .next t ↔ ∃ f, s.ce = some f ∧ f.pos < (progOf s.params i).code.length ∧
      t = ceSteps (progOf s.params i) (more + 1) s.dropTurn := by
  have hmore : s.world.moreSteps = more := by rw [World.moreSteps, hturns]
  rw [exec_eq_runCommand, ← hmore]
  refine ⟨runCommand_next, ?_⟩
  rintro ⟨f, hce, hpos, rfl⟩
  exact runCommand_of_ce hce hpos

/-- Two turns of the engine in a row perform the atomic steps of both: the first one's steps are the same whether the
second turn is taken after them or before. -/
theorem exec_two_turns {u v : State} {m n : Nat} (hturns : s.world.turns = .ce m :: .ce n :: rest)
    (hu : exec i s = .next u) (hv : exec i u = .next v) :
    ∃ f, s.ce = some f ∧ f.pos < (progOf s.params i).code.length ∧
      v = ceSteps (progOf s.params i) (m + n + 1 + 1) s.dropTurn.dropTurn := by
  have hparams : u.params = s.params := (exec_const_frame hu).1
  obtain ⟨f, hce, hpos, rfl⟩ := (exec_next_iff hturns).1 hu
  have hturns' : (ceSteps (progOf s.params i) (m + 1) s.dropTurn).world.turns = .ce n :: rest := by
    rw [ceSteps_turns, State.dropTurn_world, World.dropTurn, hturns]
    rfl
  obtain ⟨_, _, _, rfl⟩ := (exec_next_iff hturns').1 hv
  refine ⟨f, hce, hpos, ?_⟩
  rw [hparams, ← ceSteps_dropTurn, ← ceSteps_add, show m + 1 + (n + 1) = m + n + 1 + 1 by omega]

end

/-- Settles O8: taking the first turn of `m + n + 2` steps and taking two turns leave the same turns. -/
theorem engineTurnsCompose : Obligations.EngineTurnsCompose := fun _ _ _ _ _ _ _ hu hv =>
  (exec_next_iff rfl).2 (exec_two_turns rfl hu hv)

/-! # The memory windows of the host port (20_memory.md R71 to R74, R79) -/

section
variable (s : State) {a : HAddr}

/-! ## The accesses, window by window -/

/-- A host read is answered or refused. -/
theorem State.hostRead_cases (a : HAddr) :
    (∃ r, s.hostRead a = s.readDone a r) ∨ s.hostRead a = s.readRefused a := by
  unfold State.hostRead
  split
  case h_1 => exact .inl ⟨_, rfl⟩
  case h_2 | h_3 =>
    split
    · exact .inr rfl
    · exact .inl ⟨_, rfl⟩
  case h_4 => exact .inr rfl

/-- A refused read returns a free word, sets HERR and takes one free value. -/
theorem State.readRefused_eq (a : HAddr) : s.readRefused a =
    { s with
      status := { s.status with herr := true }
      history := s.history ++ [.hostRead a (Config.freeWord s.world.tick) true]
      world := { s.world with tick := s.world.tick + 1 } } := rfl

/-- A refused write sets HERR and nothing else. -/
theorem State.writeRefused_eq (a : HAddr) (w : Word) : s.writeRefused a w =
    { s with
      status := { s.status with herr := true }
      history := s.history ++ [.hostWrite a w .refused] } := rfl

theorem State.hostRead_cfgmem {i : Nat} (ha : a.toNat = 0x10000 + i) (hi : i < s.params.cfgWords) :
    s.hostRead a = if s.busy then s.readRefused a else s.readDone a (s.cfgWordAt i) := by
  rw [State.hostRead, regionOf_cfgmem _ ha hi]

theorem State.hostWrite_cfgmem {i : Nat} (ha : a.toNat = 0x10000 + i) (hi : i < s.params.cfgWords) (w : Word) :
    s.hostWrite a w =
      if s.busy then s.writeRefused a w
      else { s with cfgmem := s.cfgmem.setWord i w }.record (.hostWrite a w .performed) := by
  rw [State.hostWrite, regionOf_cfgmem _ ha hi]

theorem State.hostRead_bufWindow {x : Nat} (ha : a.toNat = 0x400000 + x) (hx : x < s.params.bufWords) :
    s.hostRead a = if s.busy then s.readRefused a else s.readDone a (s.bufWordAt x) := by
  rw [State.hostRead, regionOf_bufWindow _ ha hx]

theorem State.hostWrite_bufWindow {x : Nat} (ha : a.toNat = 0x400000 + x) (hx : x < s.params.bufWords) (w : Word) :
    s.hostWrite a w = s.writeRefused a w := by
  rw [State.hostWrite, regionOf_bufWindow _ ha hx]

theorem State.hostRead_unmapped (h : regionOf s.params a = .unmapped) : s.hostRead a = s.readRefused a := by
  rw [State.hostRead, h]

theorem State.hostWrite_unmapped (h : regionOf s.params a = .unmapped) (w : Word) :
    s.hostWrite a w = s.writeRefused a w := by
  rw [State.hostWrite, h]

end

/-! ## The bytes of a word -/

/-- Byte `j` of a word built from four bytes is the byte it was built from. -/
theorem extractLsb'_wordOfBytes (byte : Nat → Byte) {j : Nat} (hj : j < 4) :
    (wordOfBytes (byte 0) (byte 1) (byte 2) (byte 3)).extractLsb' (8 * j) 8 = byte j := by
  apply BitVec.eq_of_getLsbD_eq
  intro k hk
  simp only [wordOfBytes, BitVec.getLsbD_extractLsb', BitVec.getLsbD_append]
  match j, hj with
  | 0, _ => simp [hk]
  | 1, _ => simp [hk]
  | 2, _ => simp [hk, show ¬ 16 + k < 8 by omega, show ¬ 16 + k - 8 < 8 by omega, show 16 + k - 8 - 8 = k by omega]
  | 3, _ => simp [hk, show ¬ 24 + k < 8 by omega, show ¬ 24 + k - 8 < 8 by omega, show ¬ 24 + k - 8 - 8 < 8 by omega,
      show 24 + k - 8 - 8 - 8 = k by omega]

/-! ## The statements -/

/-- Settles O53: outside the three windows both accesses are refused. -/
theorem unmappedAccesses : Obligations.UnmappedAccesses := by
  intro s a w hcsr hcfgmem hbuf
  have hregion : regionOf s.params a = .unmapped := by
    refine regionOf_unmapped _ hcsr hcfgmem fun ⟨hlow, hhigh⟩ => hbuf ⟨hlow, ?_⟩
    rw [← Params.lt_bufWords]
    omega
  exact ⟨s.hostWrite_unmapped hregion w, _, _, s.hostRead_unmapped hregion⟩

/-- Settles O54: an answered read records itself, a refused one sets HERR besides. -/
theorem hostReadsOnlySetHerr : Obligations.HostReadsOnlySetHerr := by
  intro s a
  obtain ⟨r, hdone⟩ | hrefused := s.hostRead_cases a
  · refine ⟨r, false, s.world.tick, ?_⟩
    rw [hdone, Bool.or_false]
    rfl
  · refine ⟨Config.freeWord s.world.tick, true, s.world.tick + 1, ?_⟩
    rw [hrefused, Bool.or_true]
    rfl

/-- Settles O51, in both cases of BUSY; the word written reads back by the laws of `Memory.setWord`. -/
theorem cfgmemWindow : Obligations.CfgmemWindow := by
  intro s a w i ha hi
  rw [s.hostRead_cfgmem ha hi, s.hostWrite_cfgmem ha hi]
  refine ⟨fun hidle => ?_, fun hbusy => ?_⟩
  · rw [if_neg (by simp [hidle]), if_neg (by simp [hidle])]
    exact ⟨⟨_, rfl⟩, s.cfgWordAt_setWord_same i w, fun j hj => s.cfgWordAt_setWord_other i j w hj, rfl⟩
  · rw [if_pos hbusy, if_pos hbusy]
    exact ⟨s.writeRefused_eq a w, _, _, s.readRefused_eq a⟩

/-- Settles O52, in both cases of BUSY; the word read is built from the bytes the window shows. -/
theorem bufWindow : Obligations.BufWindow := by
  intro s a w x ha hx
  have hwindow : x < s.params.bufWords := (s.params.lt_bufWords x).2 hx
  rw [s.hostRead_bufWindow ha hwindow, s.hostWrite_bufWindow ha hwindow]
  refine ⟨fun hidle => ?_, fun hbusy => ?_, s.writeRefused_eq a w⟩
  · rw [if_neg (by simp [hidle])]
    exact ⟨s.bufWordAt x, rfl, fun j hj => extractLsb'_wordOfBytes (fun j => s.windowByte (4 * x + j)) hj⟩
  · rw [if_pos hbusy]
    exact ⟨_, _, s.readRefused_eq a⟩

end Sys2Proof.Machine

/-! # Command words (30_encoding.md R100 to R105, R120)

A command word is an opcode above an operand. The fields the decoder reads from an operand, put back in their places,
are the operand with its reserved bits cleared; both round trips follow from that. -/

namespace Sys2Proof

/-! ## Fields of a bit vector -/

/-- A field of a field. -/
theorem extract_extract {w n m : Nat} (x : BitVec w) (i j : Nat) (h : j + m ≤ n) :
    (x.extractLsb' i n).extractLsb' j m = x.extractLsb' (i + j) m := by
  apply BitVec.eq_of_getLsbD_eq
  intro k hk
  simp [hk, show j + k < n by omega, Nat.add_assoc]

theorem extract_high_append_low {m n : Nat} (x : BitVec (m + n)) : x.extractLsb' n m ++ x.extractLsb' 0 n = x := by
  rw [BitVec.extractLsb'_append_extractLsb'_eq_extractLsb' (by omega), BitVec.extractLsb'_eq_self]

/-- Two adjacent fields that are all of a bit vector, some bits of each cleared. -/
theorem cleared_append_cleared {m n : Nat} (x : BitVec (m + n)) (u : BitVec m) (v : BitVec n) :
    (x.extractLsb' n m &&& ~~~u) ++ (x.extractLsb' 0 n &&& ~~~v) = x &&& ~~~(u ++ v) := by
  rw [BitVec.not_append, ← BitVec.and_append, extract_high_append_low]

theorem zero_append_low {m n : Nat} (x : BitVec (m + n)) :
    0#m ++ x.extractLsb' 0 n = x &&& ~~~(BitVec.allOnes m ++ 0#n) := by
  rw [← cleared_append_cleared]
  simp

theorem high_append_zero {m n : Nat} (x : BitVec (m + n)) :
    x.extractLsb' n m ++ 0#n = x &&& ~~~(0#m ++ BitVec.allOnes n) := by
  rw [← cleared_append_cleared]
  simp

theorem and_not_zero {n : Nat} (x : BitVec n) : x &&& ~~~0#n = x := by
  rw [BitVec.not_zero, BitVec.and_allOnes]

/-- No bit of a mask is set exactly when clearing them changes nothing. -/
theorem and_eq_zero_iff_and_not_eq {n : Nat} (x mask : BitVec n) : x &&& mask = 0#n ↔ x &&& ~~~mask = x := by
  refine ⟨fun h => ?_, fun h => by rw [← h, BitVec.and_assoc, BitVec.not_and_self]; exact BitVec.and_zero⟩
  ext k hk
  have hbit : (x[k] && mask[k]) = false := by simpa using congrArg (fun y : BitVec n => y[k]) h
  simpa using hbit

/-! ## Fields of a word and of an operand (R100, R101) -/

theorem opcode_append_operand (w : Word) : opcodeOfWord w ++ operandOfWord w = w :=
  extract_high_append_low (m := 8) (n := 24) w

/-- The field REG is the lower half of the field ADDR. -/
theorem fieldReg_eq_loByte (o : Operand) : fieldReg o = loByte (fieldAddr o) :=
  (extract_extract o 8 0 (by decide)).symm

/-- REG above a byte of the operand, the bits `mask` of the byte cleared: formats S and SR. -/
theorem zero_append_fieldReg_append (o : Operand) (mask : Byte) :
    (0#8 ++ fieldReg o : BitVec 16) ++ (fieldByte o &&& ~~~mask) = o &&& ~~~(0xFF00#16 ++ mask) := by
  rw [fieldReg_eq_loByte]
  exact (congrArg (· ++ _) (zero_append_low (m := 8) (n := 8) (fieldAddr o))).trans
    (cleared_append_cleared (m := 16) (n := 8) o 0xFF00#16 mask)

theorem fieldMask2_append (x : BitVec 22) (mask : BitVec 2) : fieldMask2 (x ++ mask) = mask := extract_append_low x mask

theorem fieldA_append (x : BitVec 23) (a : BitVec 1) : fieldA (x ++ a) = a := extract_append_low x a

theorem fieldByte_append (x : BitVec 16) (b : Byte) : fieldByte (x ++ b) = b := extract_append_low x b

theorem fieldHalf_append (x : Byte) (h : BitVec 16) : fieldHalf (x ++ h) = h := extract_append_low x h

theorem fieldAddr_append (addr : RegAddr) (b : Byte) : fieldAddr (addr ++ b) = addr := extract_append_high addr b

theorem fieldReg_append (x reg b : Byte) : fieldReg ((x ++ reg : BitVec 16) ++ b) = reg := by
  rw [fieldReg_eq_loByte, fieldAddr_append]
  exact extract_append_low x reg

/-! ## The table of opcodes (R103) -/

theorem opcodeOf_of_instrOf {opc : Byte} {o : Operand} {i : Instr} (h : instrOf opc o = some i) : opcodeOf i = opc := by
  unfold instrOf at h
  split at h <;> cases h <;> rfl

/-- A command's opcode selects a command of the same format, whatever the operand is. -/
theorem exists_instrOf_opcodeOf (i : Instr) (o : Operand) :
    ∃ j, instrOf (opcodeOf i) o = some j ∧ j.format = i.format := by
  cases i <;> exact ⟨_, rfl, rfl⟩

theorem instrOf_eq_none_iff {opc : Byte} {o : Operand} : instrOf opc o = none ↔ ∀ i, opcodeOf i ≠ opc := by
  refine ⟨?_, fun h => Option.eq_none_iff_forall_ne_some.2 fun i hi => h i (opcodeOf_of_instrOf hi)⟩
  rintro hnone i rfl
  obtain ⟨j, hj, -⟩ := exists_instrOf_opcodeOf i o
  rw [hnone] at hj
  cases hj

/-! ## The operand of a command (R101, R102) -/

/-- The fields read from a command's operand are the command's own. -/
theorem instrOf_operandOf (i : Instr) : instrOf (opcodeOf i) (operandOf i) = some i := by
  cases i with
  | nop | fccFlush | fccTrigger | fccPollDone | fccReadLen | btnArmWait | fccBurstRead | fccSingleCapture => rfl
  | busOpen | busClose => exact congrArg some (congrArg _ (fieldMask2_append _ _))
  | rbWrite => exact congrArg some (congrArg₂ _ (fieldAddr_append _ _) (fieldByte_append _ _))
  | rbRead => exact congrArg some (congrArg _ (fieldAddr_append _ _))
  | sbXferByte => exact congrArg some (congrArg _ (fieldByte_append _ _))
  | sbXferWord | cfgApply | cfgRead | fccSelfTest => exact congrArg some (congrArg _ (fieldHalf_append _ _))
  | sbCs => exact congrArg some (congrArg _ (fieldA_append _ _))
  | fccWriteReg | fccSetBit | fccClrBit | fccGetBit =>
    exact congrArg some (congrArg₂ _ (fieldReg_append _ _ _) (fieldByte_append _ _))
  | fccReadReg => exact congrArg some (congrArg _ (fieldReg_append _ _ _))

/-- The operand bits of a command are those of the operand it was read from, the reserved bits cleared. -/
theorem operandOf_of_instrOf {opc : Byte} {o : Operand} {i : Instr} (h : instrOf opc o = some i) :
    operandOf i = o &&& ~~~i.format.reserved := by
  obtain rfl := opcodeOf_of_instrOf h
  cases i with
  | nop | fccFlush | fccTrigger | fccPollDone | fccReadLen | btnArmWait => exact BitVec.and_zero.symm
  | busOpen | busClose => cases h; exact zero_append_low (m := 22) (n := 2) o
  | rbWrite => cases h; exact (extract_high_append_low (m := 16) (n := 8) o).trans (and_not_zero o).symm
  | rbRead => cases h; exact high_append_zero (m := 16) (n := 8) o
  | sbXferByte => cases h; exact zero_append_low (m := 16) (n := 8) o
  | sbXferWord | cfgApply | cfgRead | fccSelfTest => cases h; exact zero_append_low (m := 8) (n := 16) o
  | sbCs => cases h; exact zero_append_low (m := 23) (n := 1) o
  | fccBurstRead | fccSingleCapture => cases h; exact (and_not_zero o).symm
  | fccWriteReg | fccSetBit | fccClrBit | fccGetBit =>
    cases h
    exact (congrArg _ (and_not_zero _).symm).trans (zero_append_fieldReg_append o 0x00#8)
  | fccReadReg => cases h; exact (congrArg _ BitVec.and_zero.symm).trans (zero_append_fieldReg_append o 0xFF#8)

theorem Format.reservedClear_iff {f : Format} {o : Operand} : f.reservedClear o = true ↔ o &&& ~~~f.reserved = o := by
  rw [Format.reservedClear, beq_iff_eq, and_eq_zero_iff_and_not_eq]

/-- The operand of a command sets no reserved bit. -/
theorem reservedClear_operandOf (i : Instr) : i.format.reservedClear (operandOf i) = true :=
  Format.reservedClear_iff.2 (operandOf_of_instrOf (instrOf_operandOf i)).symm

/-! ## What the decoder rejects (R104) -/

theorem decode_eq_unknownOpcode_iff (w : Word) :
    decode w = .error .unknownOpcode ↔ instrOf (opcodeOfWord w) (operandOfWord w) = none := by
  unfold decode
  split
  case h_1 hnone => simp [hnone]
  case h_2 i hi => split <;> simp [hi]

theorem decode_eq_reservedBitSet_iff (w : Word) :
    decode w = .error .reservedBitSet ↔ ∃ i, instrOf (opcodeOfWord w) (operandOfWord w) = some i ∧
      i.format.reservedClear (operandOfWord w) = false := by
  unfold decode
  split
  case h_1 hnone => simp [hnone]
  case h_2 i hi => split <;> simp_all

/-! ## The statements -/

/-- Settles O1: the decoder reads a command's own fields from its word and finds no reserved bit set. -/
theorem decodeOfEncode : Obligations.DecodeOfEncode := by
  intro i
  rw [decode_ok_iff, opcodeOfWord_encode, operandOfWord_encode]
  exact ⟨instrOf_operandOf i, reservedClear_operandOf i⟩

/-- Settles O2: the command has the word's opcode and, no reserved bit being set, the word's operand. -/
theorem encodeOfDecode : Obligations.EncodeOfDecode := by
  intro w i h
  obtain ⟨hi, hclear⟩ := (decode_ok_iff w i).1 h
  calc encode i = opcodeOf i ++ operandOf i := rfl
    _ = opcodeOfWord w ++ operandOfWord w := by
      rw [opcodeOf_of_instrOf hi, operandOf_of_instrOf hi, Format.reservedClear_iff.1 hclear]
    _ = w := opcode_append_operand w

/-- Settles O3: the table has a row for an opcode exactly when a command has it, and the commands of an opcode have one
format. -/
theorem decodeRejectsExactly : Obligations.DecodeRejectsExactly := by
  refine fun w => ⟨(decode_eq_unknownOpcode_iff w).trans instrOf_eq_none_iff,
    (decode_eq_reservedBitSet_iff w).trans ⟨?_, ?_⟩⟩
  · rintro ⟨i, hi, hset⟩
    exact ⟨i, opcodeOf_of_instrOf hi, hset⟩
  · rintro ⟨i, hopc, hset⟩
    obtain ⟨j, hj, hformat⟩ := exists_instrOf_opcodeOf i (operandOfWord w)
    exact ⟨j, hopc ▸ hj, hformat ▸ hset⟩

/-- Settles O4: each word is its command's. -/
theorem exampleWordsDecode : Obligations.ExampleWordsDecode :=
  ⟨decodeOfEncode .fccFlush, decodeOfEncode (.busOpen 3#2), decodeOfEncode (.rbWrite 0x3012#16 0x80#8),
    decodeOfEncode (.rbRead 0x0A#16), decodeOfEncode (.sbXferByte 0x3C#8), decodeOfEncode (.sbXferWord 0x8155#16),
    decodeOfEncode (.sbCs 1#1), decodeOfEncode (.cfgApply 0#16), decodeOfEncode (.fccSelfTest 0#16),
    decodeOfEncode (.fccBurstRead 10#24), decodeOfEncode (.fccSetBit 0x03#8 0x10#8),
    decodeOfEncode (.fccReadReg 0x41#8)⟩

end Sys2Proof

/-! # Entries, illegal words and the register-bus frames (30_encoding.md R104, R113, 40_bus_primitives.md) -/

namespace Sys2Proof.Machine

/-! ## Entries (R110, R113, R181) -/

theorem addressFits_iff {aw : Bool} {addr : RegAddr} :
    addressFits aw addr = true ↔ aw = true ∨ hiByte addr = 0#8 := by
  rw [addressFits, Bool.or_eq_true, beq_iff_eq]

/-- A 16-bit value is its two bytes. -/
theorem eq_append_iff {v : BitVec 16} {hi lo : Byte} : v = hi ++ lo ↔ hiByte v = hi ∧ loByte v = lo := by
  constructor
  · rintro rfl
    exact ⟨extract_append_high hi lo, extract_append_low hi lo⟩
  · rintro ⟨rfl, rfl⟩
    exact (extract_high_append_low (m := 8) (n := 8) v).symm

theorem hiByte_entryAddr (e : Word) : hiByte (entryAddr e) = e.extractLsb' 8 8 := extract_extract e 0 8 (by decide)

theorem entryMalformed_iff {aw : Bool} {e : Word} :
    entryMalformed aw e = true ↔ aw = false ∧ hiByte (entryAddr e) ≠ 0#8 := by
  rw [entryMalformed, Bool.not_eq_true', ← Bool.not_eq_true, addressFits_iff, not_or, Bool.not_eq_true]

theorem isSentinel_wide {e : Word} : isSentinel true e = true ↔ entryAddr e = 0xFFFF#16 ∧ entryVal e = 0xFF#8 := by
  simp [isSentinel]

/-- In 8-bit mode the test reads the low address byte alone, which is the address of a well-formed entry. -/
theorem isSentinel_narrow {e : Word} (h : entryMalformed false e = false) :
    isSentinel false e = true ↔ entryAddr e = 0x00FF#16 ∧ entryVal e = 0xFF#8 := by
  have hhigh : hiByte (entryAddr e) = 0#8 := by
    by_contra hne
    exact absurd (entryMalformed_iff.2 ⟨rfl, hne⟩) (by simp [h])
  have haddr : entryAddr e = 0x00FF#16 ↔ loByte (entryAddr e) = 0xFF#8 :=
    (eq_append_iff (hi := 0x00#8) (lo := 0xFF#8)).trans (and_iff_right hhigh)
  rw [haddr]
  simp [isSentinel]

/-! ## The ends of a command (R308) -/

section
variable (s : State)

theorem State.finish_dropTurn (err : Option Err) (r : Word) :
    s.dropTurn.finish err r = s.completed 0 [] err r := by
  simp only [State.completed, List.append_nil]
  rfl

theorem State.finishFree_dropTurn (e : Err) : s.dropTurn.finishFree e = s.completedFree 0 [] e := by
  simp only [State.completedFree, State.completed, List.append_nil]
  rfl

end

/-- A word that is no command ends with IllegalCommand (R104), RESULT 0 where the opcode defines it on error. -/
theorem engineTurn_illegalWord {s : State} {f : Flight} {e : DecodeError} (hf : s.ce = some f)
    (hd : decode f.word = .error e) : engineTurn s = .next (s.dropTurn.illegalWord f.word) := by
  simp only [engineTurn, State.fetch, hf, hd]

/-! ## Checks and failed primitives -/

/-- A command that starts is in front of the first operation of its pseudocode. -/
theorem Starts.dropTurn_eq_goto {i : Instr} {n : Nat} {s : State} (h : Starts i n s) :
    s.dropTurn = s.dropTurn.goto (Flight.start (encode i)) 0 := by
  have hce : s.dropTurn.ce = some (Flight.start (encode i)) := h.1
  rw [State.goto, show ({ Flight.start (encode i) with pos := 0 } : Flight) = Flight.start (encode i) from rfl, ← hce]

section
variable {p : Prog} {n pos : Nat} {s : State} {f : Flight} {c : Cond} {e : Err}

theorem State.raise_of_free (hp : p.errResult = .free) : s.raise p f e = s.finishFree e := by
  rw [State.raise, hp]

/-- A check that does not hold is passed. -/
theorem ceSteps_passCheck (hop : p.code[pos]? = some (.raiseIf c e))
    (hc : c.holds { f with pos := pos } (s.goto f pos) = false) :
    ceSteps p (n + 1) (s.goto f pos) = ceSteps p n (s.goto f (pos + 1)) := by
  rw [ceSteps_op rfl hop, runOp_raiseIf, if_neg (by simp [hc])]
  rfl

/-- A check that holds ends a command whose RESULT on error is free. -/
theorem ceSteps_raise (hop : p.code[pos]? = some (.raiseIf c e)) (hp : p.errResult = .free)
    (hc : c.holds { f with pos := pos } (s.goto f pos) = true) :
    ceSteps p (n + 1) (s.goto f pos) = s.finishFree e := by
  rw [ceSteps_op rfl hop, runOp_raiseIf, if_pos hc, State.raise_of_free hp]
  exact ceSteps_idle _ _ rfl

/-- The handler that only reports ends such a command with the error handed to it (R143). -/
theorem ceSteps_reportHandler (hh : p.handler = reportHandler) (hp : p.errResult = .free) :
    ceSteps p (n + 1) (s.fail p f e) = s.finishFree e := by
  have hop : p.code[p.main.length]? = some .reraise := by
    rw [Prog.code, hh, List.getElem?_append_right le_rfl, Nat.sub_self]
    rfl
  rw [ceSteps_op rfl hop, runOp_reraise]
  exact (congrArg _ (State.raise_of_free hp)).trans (ceSteps_idle p n (s := s.finishFree e) rfl)

theorem State.rbWriteFrame_of_error {bytes : List Byte} (h : s.answer.rbError = some e) :
    s.rbWriteFrame p f bytes = (s.answered.record (.rbWrite bytes (some e))).fail p f e := by
  rw [State.rbWriteFrame, h]
  rfl

theorem State.rbReadFrame_of_error {bytes : List Byte} (h : s.answer.rbError = some e) :
    s.rbReadFrame p f bytes = (s.answered.record (.rbRead bytes (.failed e))).fail p f e := by
  rw [State.rbReadFrame, h]
  rfl

end

/-! ## RB_WRITE and RB_READ (R146, R148) -/

/-- The pseudocode that RB_WRITE and RB_READ share: the two checks, the frame, the end. -/
def registerProg (addr : RegAddr) (frame : Op) (x : Val) : Prog where
  main :=
    [.raiseIf (.not (.addressFits addr)) .illegalCommand,
     .raiseIf (.not (.busUp .rb)) .busUnavailable,
     frame,
     .complete x]
  handler := reportHandler
  errResult := .free

theorem progOf_rbWrite (q : Params) (addr : RegAddr) (val : Byte) :
    progOf q (.rbWrite addr val) = registerProg addr (.rbWrite addr val) .zero := rfl

theorem progOf_rbRead (q : Params) (addr : RegAddr) :
    progOf q (.rbRead addr) = registerProg addr (.rbRead addr) .v := rfl

section
variable {i : Instr} {n : Nat} {s : State} {addr : RegAddr} {frame : Op} {x : Val}

theorem exec_register_wideAddress (hp : progOf s.params i = registerProg addr frame x) (h : Starts i (n + 1) s)
    (hwide : addressFits s.cfg.aw addr = false) : exec i s = .next (s.completedFree 0 [] .illegalCommand) := by
  refine exec_of_ceSteps h ?_ rfl
  rw [hp, h.dropTurn_eq_goto, ceSteps_raise rfl rfl (by simp [hwide]), State.finishFree_dropTurn]

theorem exec_register_busDown (hp : progOf s.params i = registerProg addr frame x) (h : Starts i (n + 2) s)
    (hfits : addressFits s.cfg.aw addr = true) (hdown : s.bus.rbUp = false) :
    exec i s = .next (s.completedFree 0 [] .busUnavailable) := by
  refine exec_of_ceSteps h ?_ rfl
  rw [hp, h.dropTurn_eq_goto, ceSteps_passCheck rfl (by simp [hfits]),
    ceSteps_raise rfl rfl (by simp [BusState.up, hdown]), State.finishFree_dropTurn]

theorem exec_register_failedFrame {event : Event} {e : Err} (hp : progOf s.params i = registerProg addr frame x)
    (h : Starts i (n + 4) s) (hfits : addressFits s.cfg.aw addr = true) (hup : s.bus.rbUp = true)
    (hframe : ∀ p f (t : State), t.cfg = s.cfg → t.answer = s.answer →
      runOp p f t frame = (t.answered.record event).fail p f e) :
    exec i s = .next (s.completedFree 1 [event] e) := by
  refine exec_of_ceSteps h ?_ rfl
  rw [hp, h.dropTurn_eq_goto, ceSteps_passCheck rfl (by simp [hfits]),
    ceSteps_passCheck rfl (by simp [BusState.up, hup]), ceSteps_op rfl rfl,
    hframe _ _ (s.dropTurn.goto _ _) rfl s.answer_dropTurn, ceSteps_reportHandler rfl rfl]
  rfl

end

/-! ## The statements -/

/-- Settles O6: the step is the engine's turn, which writes the completion fields. -/
theorem illegalWordEndsWithIllegalCommand : Obligations.IllegalWordEndsWithIllegalCommand := by
  intro s f e more rest hr hturns hf hd
  rw [step_engineTurn hturns hr, engineTurn_illegalWord hf hd, State.illegalWord]
  split
  case isTrue =>
    exact ⟨0#32, s.world.tick, by rw [State.finish_dropTurn]; rfl, fun _ => rfl⟩
  case isFalse hfree =>
    refine ⟨Config.freeWord s.world.tick, s.world.tick + 1, by rw [State.finishFree_dropTurn]; rfl, fun hopc => ?_⟩
    exact absurd (by rcases hopc with hopc | hopc <;> simp [resultDefinedOnError, hopc]) hfree

/-- Settles O23, width by width. -/
theorem sentinelNeedsBothFields : Obligations.SentinelNeedsBothFields := by
  intro aw e
  refine ⟨by rw [entryMalformed_iff, hiByte_entryAddr], fun h => ?_⟩
  cases aw with
  | true => exact isSentinel_wide
  | false => exact isSentinel_narrow h

/-- Settles O15: the checks of the shared pseudocode in their order, then the frame of each command. -/
theorem registerBusErrorOrder : Obligations.RegisterBusErrorOrder := by
  intro i addr s hi h
  obtain ⟨frame, x, hp⟩ : ∃ frame x, progOf s.params i = registerProg addr frame x := by
    obtain rfl | ⟨val, rfl⟩ := hi
    · exact ⟨_, _, progOf_rbRead _ _⟩
    · exact ⟨_, _, progOf_rbWrite _ _ _⟩
  refine ⟨fun haw hhigh => exec_register_wideAddress hp h ?_, fun hfits hdown =>
    exec_register_busDown hp h (addressFits_iff.2 hfits) hdown, fun e hfits hup he => ⟨?_, ?_⟩⟩
  · simp [addressFits, haw, hhigh]
  · rintro val rfl
    refine exec_register_failedFrame (progOf_rbWrite _ _ _) h (addressFits_iff.2 hfits) hup fun p f t hcfg hanswer => ?_
    rw [runOp_rbWrite, State.rbWriteFrame_of_error (by rw [hanswer]; exact he), hcfg]
    cases s.cfg.aw <;> rfl
  · rintro rfl
    refine exec_register_failedFrame (progOf_rbRead _ _) h (addressFits_iff.2 hfits) hup fun p f t hcfg hanswer => ?_
    rw [runOp_rbRead, State.rbReadFrame_of_error (by rw [hanswer]; exact he), hcfg, rbReadBytes, rbAddressBytes]

end Sys2Proof.Machine

/-! # The bus primitives (40_bus_primitives.md R140 to R154)

Where a bus primitive stands is told by three things: the answers it has taken, the events it has recorded and the state
of the buses (`State.reached`). One lemma for each operation says what it makes of the three; the command's end is
`State.completed` or `State.completedFree` of them. -/

namespace Sys2Proof.Machine

/-! ## The state part of the way through a command -/

/-- The state of a command that has taken its turn and `taken` answers, recorded `events` and brought the buses to
`bus`. -/
def State.reached (s : State) (taken : Nat) (events : List Event) (bus : BusState) : State :=
  { s with
    bus := bus
    history := s.history ++ events
    world := World.skipAnswers taken s.world.dropTurn }

section
variable {s : State} {taken : Nat} {events : List Event} {bus : BusState}

theorem State.reached_start : s.reached 0 [] s.bus = s.dropTurn := by
  simp only [State.reached, List.append_nil]
  rfl

@[simp] theorem State.reached_bus : (s.reached taken events bus).bus = bus := rfl

@[simp] theorem State.reached_cfg : (s.reached taken events bus).cfg = s.cfg := rfl

theorem State.reached_goto_answer (f : Flight) (pos : Nat) :
    ((s.reached taken events bus).goto f pos).answer = s.world.answerAt taken :=
  World.answerAt_dropTurn s.world taken

theorem State.reached_record (event : Event) :
    (s.reached taken events bus).record event = s.reached taken (events ++ [event]) bus := by
  simp only [State.reached, State.record, List.append_assoc]

theorem State.reached_answered_record (event : Event) :
    (s.reached taken events bus).answered.record event = s.reached (taken + 1) (events ++ [event]) bus := by
  simp only [State.reached, State.answered, State.record, List.append_assoc, World.skipAnswers_succ]

theorem State.reached_driveCs (a : Bool) :
    (s.reached taken events bus).driveCs a = s.reached taken (events ++ [.sbCs a]) { bus with cs := a } := by
  simp only [State.reached, State.driveCs, State.record, List.append_assoc]

theorem State.reached_finish (err : Option Err) (r : Word) :
    (s.reached taken events bus).finish err r = { s.completed taken events err r with bus := bus } := rfl

theorem State.reached_finishFree (e : Err) :
    (s.reached taken events bus).finishFree e = { s.completedFree taken events e with bus := bus } := rfl

/-- A command that starts has taken and recorded nothing and is in front of its first operation. -/
theorem Starts.dropTurn_eq_reached {i : Instr} {n : Nat} (h : Starts i n s) :
    s.dropTurn = (s.reached 0 [] s.bus).goto (Flight.start (encode i)) 0 := by
  rw [State.reached_start]
  exact h.dropTurn_eq_goto

theorem exec_of_ceSteps_reached {i : Instr} {n : Nat} {t : State} (h : Starts i n s)
    (ht : ceSteps (progOf s.params i) n ((s.reached 0 [] s.bus).goto (Flight.start (encode i)) 0) = t)
    (hc : t.ce = none) : exec i s = .next t :=
  exec_of_ceSteps h (h.dropTurn_eq_reached ▸ ht) hc

end

/-! ## The operations of the bus primitives -/

section
variable {p : Prog} {n pos taken : Nat} {s r : State} {f : Flight} {events : List Event} {bus : BusState} {b : Bus}

theorem ceSteps_skip {c : Cond} {count : Nat} (hop : p.code[pos]? = some (.skipIf c count))
    (hc : c.holds { f with pos := pos } (r.goto f pos) = true) :
    ceSteps p (n + 1) (r.goto f pos) = ceSteps p n (r.goto f (pos + 1 + count)) := by
  rw [ceSteps_op rfl hop, runOp_skipIf, if_pos hc]
  rfl

theorem ceSteps_noSkip {c : Cond} {count : Nat} (hop : p.code[pos]? = some (.skipIf c count))
    (hc : c.holds { f with pos := pos } (r.goto f pos) = false) :
    ceSteps p (n + 1) (r.goto f pos) = ceSteps p n (r.goto f (pos + 1)) := by
  rw [ceSteps_op rfl hop, runOp_skipIf, if_neg (by simp [hc])]
  rfl

theorem ceSteps_setUp {v : Bool} (hop : p.code[pos]? = some (.setUp b v)) :
    ceSteps p (n + 1) ((s.reached taken events bus).goto f pos) =
      ceSteps p n ((s.reached taken events (bus.setUp b v)).goto f (pos + 1)) := by
  rw [ceSteps_op rfl hop]
  rfl

theorem ceSteps_busClose (hop : p.code[pos]? = some (.busClose b)) :
    ceSteps p (n + 1) ((s.reached taken events bus).goto f pos) =
      ceSteps p n ((s.reached taken (events ++ [.busClose b]) bus).goto f (pos + 1)) := by
  rw [ceSteps_op rfl hop, ← State.reached_record]
  rfl

theorem ceSteps_cs {a : Bool} (hop : p.code[pos]? = some (.cs a)) :
    ceSteps p (n + 1) ((s.reached taken events bus).goto f pos) =
      ceSteps p n ((s.reached taken (events ++ [.sbCs a]) { bus with cs := a }).goto f (pos + 1)) := by
  rw [ceSteps_op rfl hop, ← State.reached_driveCs]
  rfl

/-- Chip select is released only where it is asserted (R144). -/
theorem ceSteps_csRelease (hop : p.code[pos]? = some .csRelease) :
    ceSteps p (n + 1) ((s.reached taken events bus).goto f pos) =
      ceSteps p n ((s.reached taken (events ++ if bus.cs then [.sbCs false] else []) { bus with cs := false }).goto f
        (pos + 1)) := by
  rw [ceSteps_op rfl hop, runOp_csRelease, State.goto_bus, State.reached_bus]
  cases hcs : bus.cs with
  | true =>
    rw [if_pos rfl, if_pos rfl, ← State.reached_driveCs]
    rfl
  | false =>
    have hbus : { bus with cs := false } = bus := by rw [← hcs]
    rw [if_neg Bool.false_ne_true, if_neg Bool.false_ne_true, List.append_nil, hbus]
    rfl

/-- The end of a command that makes no error (R308). -/
theorem ceSteps_complete {x : Val} (hop : p.code[pos]? = some (.complete x)) :
    ceSteps p (n + 1) ((s.reached taken events bus).goto f pos) =
      { s.completed taken events none (x.value { f with pos := pos }) with bus := bus } := by
  rw [ceSteps_op rfl hop, runOp_complete]
  exact ceSteps_idle _ _ rfl

/-- A primitive whose answer is a success goes on at the next operation. -/
theorem ceSteps_settle_none {op : Op} {event : Event} {g : Flight} (hop : p.code[pos]? = some op)
    (hrun : runOp p { f with pos := pos } ((s.reached taken events bus).goto f pos) op =
      (((s.reached taken events bus).goto f pos).answered.record event).settle p { f with pos := pos } none
        { g with pos := pos }) :
    ceSteps p (n + 1) ((s.reached taken events bus).goto f pos) =
      ceSteps p n ((s.reached (taken + 1) (events ++ [event]) bus).goto g (pos + 1)) := by
  rw [ceSteps_op rfl hop, hrun, ← State.reached_answered_record]
  rfl

/-- A primitive that fails ends a command whose handler only reports (R143). -/
theorem ceSteps_settle_some {op : Op} {event : Event} {e : Err} {g : Flight} (hh : p.handler = reportHandler)
    (hp : p.errResult = .free) (hop : p.code[pos]? = some op)
    (hrun : runOp p { f with pos := pos } ((s.reached taken events bus).goto f pos) op =
      (((s.reached taken events bus).goto f pos).answered.record event).settle p { f with pos := pos } (some e) g) :
    ceSteps p (n + 2) ((s.reached taken events bus).goto f pos) =
      { s.completedFree (taken + 1) (events ++ [event]) e with bus := bus } := by
  rw [ceSteps_op rfl hop, hrun]
  refine (ceSteps_reportHandler hh hp).trans ?_
  rw [← State.reached_finishFree, ← State.reached_answered_record]
  rfl

/-! ### The primitives that take an answer -/

theorem ceSteps_busOpen (hop : p.code[pos]? = some (.busOpen b)) (hok : (s.world.answerAt taken).isOk = true) :
    ceSteps p (n + 1) ((s.reached taken events bus).goto f pos) =
      ceSteps p n ((s.reached (taken + 1) (events ++ [.busOpen b none]) bus).goto f (pos + 1)) :=
  ceSteps_settle_none hop (by
    rw [runOp_busOpen, State.openBus, State.reached_goto_answer, Answer.ok_of_isOk hok, Answer.openError_ok])

theorem ceSteps_rbWrite {addr : RegAddr} {val : Byte} (hop : p.code[pos]? = some (.rbWrite addr val))
    (hok : (s.world.answerAt taken).isOk = true) :
    ceSteps p (n + 1) ((s.reached taken events bus).goto f pos) =
      ceSteps p n ((s.reached (taken + 1) (events ++ [.rbWrite (rbWriteBytes s.cfg.aw addr val) none]) bus).goto f
        (pos + 1)) :=
  ceSteps_settle_none hop (by
    rw [runOp_rbWrite, State.rbWriteFrame, State.reached_goto_answer, Answer.ok_of_isOk hok, Answer.rbError_ok]
    rfl)

theorem ceSteps_rbRead {addr : RegAddr} (hop : p.code[pos]? = some (.rbRead addr))
    (hok : (s.world.answerAt taken).isOk = true) :
    ceSteps p (n + 1) ((s.reached taken events bus).goto f pos) =
      ceSteps p n ((s.reached (taken + 1)
        (events ++ [.rbRead (rbReadBytes s.cfg.aw addr) (.byte (s.world.byteAt taken))]) bus).goto
          { f with v := s.world.byteAt taken } (pos + 1)) :=
  ceSteps_settle_none hop (by
    rw [runOp_rbRead, State.rbReadFrame, State.reached_goto_answer, Answer.ok_of_isOk hok, Answer.rbError_ok]
    rfl)

/-- Where a received byte is kept does not depend on the position. -/
theorem Flight.keep_with_pos (f : Flight) (pos : Nat) (byte : Byte) (slot : Slot) :
    ({ f with pos := pos } : Flight).keep byte slot = { f.keep byte slot with pos := pos } := by
  cases slot <;> rfl

theorem ceSteps_xfer {tx : Byte} {slot : Slot} (hop : p.code[pos]? = some (.xfer (.byte tx) slot))
    (hok : (s.world.answerAt taken).isOk = true) :
    ceSteps p (n + 1) ((s.reached taken events bus).goto f pos) =
      ceSteps p n ((s.reached (taken + 1) (events ++ [sent tx (s.world.byteAt taken)]) bus).goto
        (f.keep (s.world.byteAt taken) slot) (pos + 1)) :=
  ceSteps_settle_none hop (by
    rw [runOp_xfer, State.sbTransfer, State.reached_goto_answer, Answer.ok_of_isOk hok, Answer.sbError_ok,
      Answer.byte_ok, Flight.keep_with_pos]
    rfl)

theorem ceSteps_busOpen_failed (hh : p.handler = reportHandler) (hp : p.errResult = .free)
    (hop : p.code[pos]? = some (.busOpen b)) (hfail : (s.world.answerAt taken).isOk = false) :
    ceSteps p (n + 2) ((s.reached taken events bus).goto f pos) =
      { s.completedFree (taken + 1) (events ++ [.busOpen b (some .busUnavailable)]) .busUnavailable with bus := bus } :=
  have herr : ((s.reached taken events bus).goto f pos).answer.openError = some .busUnavailable := by
    rw [State.reached_goto_answer, Answer.openError_of_not_isOk hfail]
  ceSteps_settle_some hh hp hop (by rw [runOp_busOpen, State.openBus, herr])

theorem ceSteps_xfer_failed {tx : Byte} {slot : Slot} (hh : p.handler = reportHandler) (hp : p.errResult = .free)
    (hop : p.code[pos]? = some (.xfer (.byte tx) slot)) (hfail : (s.world.answerAt taken).isOk = false) :
    ceSteps p (n + 2) ((s.reached taken events bus).goto f pos) =
      { s.completedFree (taken + 1) (events ++ [failedTransfer tx]) .ioFailure with bus := bus } :=
  have herr : ((s.reached taken events bus).goto f pos).answer.sbError = some .ioFailure := by
    rw [State.reached_goto_answer, Answer.sbError_of_not_isOk hfail]
  ceSteps_settle_some hh hp hop (by rw [runOp_xfer, State.sbTransfer, herr]; rfl)

end

/-! ## NOP, the register-bus frames, the serial-bus primitives -/

/-- Settles O9: the one operation of NOP is its end. -/
theorem nopCompletes : Obligations.NopCompletes := by
  intro s h
  refine exec_of_ceSteps_reached h ?_ rfl
  rw [ceSteps_complete rfl]
  rfl

/-- Settles O13: the two checks are passed and the frame is sent. -/
theorem rbWriteCompletes : Obligations.RbWriteCompletes := by
  intro addr val s h hfits hup hok
  refine exec_of_ceSteps_reached h ?_ rfl
  rw [progOf_rbWrite, ceSteps_passCheck rfl (by simp [addressFits_iff.2 hfits]),
    ceSteps_passCheck rfl (by simp [BusState.up, hup]), ceSteps_rbWrite rfl (hok 0 Nat.zero_lt_one),
    ceSteps_complete rfl]
  cases s.cfg.aw <;> rfl

/-- Settles O14: the two checks are passed and the byte the frame receives is the result. -/
theorem rbReadCompletes : Obligations.RbReadCompletes := by
  intro addr s h hfits hup hok
  refine exec_of_ceSteps_reached h ?_ rfl
  rw [progOf_rbRead, ceSteps_passCheck rfl (by simp [addressFits_iff.2 hfits]),
    ceSteps_passCheck rfl (by simp [BusState.up, hup]), ceSteps_rbRead rfl (hok 0 Nat.zero_lt_one),
    ceSteps_complete rfl]
  rfl

/-- Settles O16: the check is passed; the bytes received are kept in the locals that the result is built from. -/
theorem serialTransfersComplete : Obligations.SerialTransfersComplete := by
  intro s hup
  refine ⟨fun byte h hok => exec_of_ceSteps_reached h ?oneByte rfl,
    fun word h hok => exec_of_ceSteps_reached h ?oneWord rfl⟩
  case oneByte =>
    rw [ceSteps_passCheck rfl (by simp [BusState.up, hup]), ceSteps_xfer rfl (hok 0 Nat.zero_lt_one),
      ceSteps_complete rfl]
    rfl
  case oneWord =>
    rw [ceSteps_passCheck rfl (by simp [BusState.up, hup]), ceSteps_xfer rfl (hok 0 Nat.zero_lt_two),
      ceSteps_xfer rfl (hok 1 Nat.one_lt_two), ceSteps_complete rfl]
    rfl

/-- Settles O17: the drive of chip select follows the check and does not look at CS. -/
theorem sbCsCompletes : Obligations.SbCsCompletes := by
  intro a s h hup
  refine exec_of_ceSteps_reached h ?_ rfl
  rw [ceSteps_passCheck rfl (by simp [BusState.up, hup]), ceSteps_cs rfl, ceSteps_complete rfl]
  rfl

/-- A command that checks the serial bus first ends with BusUnavailable where it is down (R141). -/
theorem exec_serial_busDown {i : Instr} {n : Nat} {s : State} (h : Starts i (n + 1) s)
    (hop : (progOf s.params i).code[0]? = some (.raiseIf (.not (.busUp .sb)) .busUnavailable))
    (hp : (progOf s.params i).errResult = .free) (hdown : s.bus.sbUp = false) :
    exec i s = .next (s.completedFree 0 [] .busUnavailable) := by
  refine exec_of_ceSteps_reached h ?_ rfl
  rw [ceSteps_raise hop hp (by simp [BusState.up, hdown]), State.reached_finishFree]
  rfl

/-- Settles O18: the check of the bus that the three commands share, then the transfer that fails. -/
theorem serialPrimitiveErrors : Obligations.SerialPrimitiveErrors := by
  intro i s h
  refine ⟨fun hi hdown => ?busDown, ?oneByte, ?firstByte, ?secondByte⟩
  case busDown =>
    obtain ⟨b, rfl⟩ | ⟨w, rfl⟩ | ⟨a, rfl⟩ := hi <;> exact exec_serial_busDown h rfl rfl hdown
  case oneByte | firstByte =>
    rintro _ rfl hup hfail
    refine exec_of_ceSteps_reached h ?_ rfl
    rw [ceSteps_passCheck rfl (by simp [BusState.up, hup]), ceSteps_xfer_failed rfl rfl rfl hfail]
    rfl
  case secondByte =>
    rintro _ rfl hup hok hfail
    refine exec_of_ceSteps_reached h ?_ rfl
    rw [ceSteps_passCheck rfl (by simp [BusState.up, hup]), ceSteps_xfer rfl hok,
      ceSteps_xfer_failed rfl rfl rfl hfail]
    rfl

/-! ## Parts of a command whose number of steps depends on the state -/

/-- The engine gets from one state to another in at most `k` steps. -/
def Reaches (p : Prog) (k : Nat) (s t : State) : Prop := ∃ m ≤ k, ceSteps p m s = t

section
variable {p : Prog} {k l : Nat} {s t u : State}

theorem Reaches.trans (h₁ : Reaches p k s t) (h₂ : Reaches p l t u) : Reaches p (k + l) s u := by
  obtain ⟨m, hm, rfl⟩ := h₁
  obtain ⟨n, hn, rfl⟩ := h₂
  exact ⟨m + n, Nat.add_le_add hm hn, ceSteps_add p m n s⟩

theorem Reaches.mono (h : Reaches p k s t) (hkl : k ≤ l) : Reaches p l s t := by
  obtain ⟨m, hm, ht⟩ := h
  exact ⟨m, hm.trans hkl, ht⟩

/-- A command that starts and reaches its end within the steps of its turn answers the completed state. -/
theorem exec_of_reaches {i : Instr} (h : Starts i k s)
    (hr : Reaches (progOf s.params i) k ((s.reached 0 [] s.bus).goto (Flight.start (encode i)) 0) t)
    (hc : t.ce = none) : exec i s = .next t := by
  obtain ⟨m, hm, ht⟩ := hr
  exact exec_of_ceSteps_reached ⟨h.1, hm.trans h.2⟩ ht hc

end

/-- The operations of the rest of a pseudocode, by their positions in it. -/
theorem code_getElem?_of_drop {p : Prog} {pos : Nat} {rest : List Op} (h : p.code.drop pos = rest) (j : Nat) :
    p.code[pos + j]? = rest[j]? := by
  rw [← h, List.getElem?_drop]

theorem code_getElem?_head_of_drop {p : Prog} {pos : Nat} {rest : List Op} (h : p.code.drop pos = rest) :
    p.code[pos]? = rest.head? := by
  rw [← h, List.head?_drop]

theorem code_drop_of_append {p : Prog} {pos : Nat} {ops rest : List Op} (h : p.code.drop pos = ops ++ rest) :
    p.code.drop (pos + ops.length) = rest := by
  rw [← List.drop_drop, h, List.drop_left]

/-! ## BUS_OPEN (R142) -/

theorem BusState.setUp_self (bus : BusState) (b : Bus) : bus.setUp b (bus.up b) = bus := by
  cases b <;> rfl

section
variable {p : Prog} {pos taken : Nat} {s : State} {f : Flight} {events : List Event} {bus : BusState} {b : Bus}
  {wanted : Bool} {rest : List Op}

/-- A bus that is not asked for, or up already, is passed over. -/
theorem reaches_openOps_passed (hcode : p.code.drop pos = openOps wanted b ++ rest)
    (h : wanted = false ∨ bus.up b = true) :
    Reaches p 3 ((s.reached taken events bus).goto f pos)
      ((s.reached taken events bus).goto f (pos + (openOps wanted b).length)) := by
  cases wanted with
  | false => exact ⟨0, Nat.zero_le _, rfl⟩
  | true =>
    have hup : bus.up b = true := h.resolve_left nofun
    exact ⟨1, by decide, ceSteps_skip (code_getElem?_head_of_drop hcode) hup⟩

/-- A bus that is asked for and down is opened and then marked as up. -/
theorem reaches_openOps_opened (hcode : p.code.drop pos = openOps true b ++ rest) (hdown : bus.up b = false)
    (hok : (s.world.answerAt taken).isOk = true) :
    Reaches p 3 ((s.reached taken events bus).goto f pos)
      ((s.reached (taken + 1) (events ++ [.busOpen b none]) (bus.setUp b true)).goto f
        (pos + (openOps true b).length)) := by
  refine ⟨3, le_rfl, ?_⟩
  rw [ceSteps_noSkip (code_getElem?_head_of_drop hcode) (by simpa using hdown),
    ceSteps_busOpen (code_getElem?_of_drop hcode 1) hok, ceSteps_setUp (code_getElem?_of_drop hcode 2)]
  rfl

/-- A failed open ends the command (R143). -/
theorem reaches_openOps_failed (hh : p.handler = reportHandler) (hp : p.errResult = .free)
    (hcode : p.code.drop pos = openOps true b ++ rest) (hdown : bus.up b = false)
    (hfail : (s.world.answerAt taken).isOk = false) :
    Reaches p 3 ((s.reached taken events bus).goto f pos)
      { s.completedFree (taken + 1) (events ++ [.busOpen b (some .busUnavailable)]) .busUnavailable with
        bus := bus } := by
  refine ⟨3, le_rfl, ?_⟩
  rw [ceSteps_noSkip (code_getElem?_head_of_drop hcode) (by simpa using hdown),
    ceSteps_busOpen_failed hh hp (code_getElem?_of_drop hcode 1) hfail]

/-- Both cases in which no open fails. -/
theorem reaches_openOps (hcode : p.code.drop pos = openOps wanted b ++ rest)
    (hok : (wanted && !bus.up b) = true → (s.world.answerAt taken).isOk = true) :
    Reaches p 3 ((s.reached taken events bus).goto f pos)
      ((s.reached (taken + (wanted && !bus.up b).toNat)
        (events ++ if wanted && !bus.up b then [.busOpen b none] else [])
        (bus.setUp b (bus.up b || wanted))).goto f (pos + (openOps wanted b).length)) := by
  cases hopens : wanted && !bus.up b with
  | true =>
    obtain ⟨rfl, hdown⟩ : wanted = true ∧ bus.up b = false := by simpa using hopens
    rw [Bool.or_true]
    exact reaches_openOps_opened hcode hdown (hok hopens)
  | false =>
    have hpass : wanted = false ∨ bus.up b = true := by
      simpa only [Bool.and_eq_false_iff, Bool.not_eq_false'] using hopens
    have hup : (bus.up b || wanted) = bus.up b := by rcases hpass with h | h <;> simp [h]
    rw [hup, BusState.setUp_self, if_neg Bool.false_ne_true, List.append_nil]
    exact reaches_openOps_passed hcode hpass

end

theorem busOpenProg_drop_zero (mask : BitVec 2) :
    (busOpenProg mask).code.drop 0 =
      openOps (mask.getLsbD 0) .rb ++ (openOps (mask.getLsbD 1) .sb ++ (.complete .zero :: reportHandler)) := by
  simp [Prog.code, busOpenProg]

/-- Settles O10: the two buses one after the other, then the end. -/
theorem busOpenCompletes : Obligations.BusOpenCompletes := by
  intro mask s h opensRb opensSb taken hok
  have hcodeSb := code_drop_of_append (busOpenProg_drop_zero mask)
  have hcodeEnd := code_drop_of_append hcodeSb
  have hrb := reaches_openOps (f := Flight.start (encode (.busOpen mask))) (events := []) (bus := s.bus)
    (busOpenProg_drop_zero mask) fun hopens => hok 0 (Nat.lt_add_right _ (Bool.toNat_eq_one.2 hopens).ge)
  rw [Nat.zero_add] at hrb
  have hsb := reaches_openOps (f := Flight.start (encode (.busOpen mask))) (taken := opensRb.toNat)
    (events := if opensRb then [.busOpen .rb none] else [])
    (bus := { s.bus with rbUp := s.bus.rbUp || mask.getLsbD 0 }) hcodeSb
    fun hopens => hok _ (Nat.lt_add_of_pos_right (Bool.toNat_eq_one.2 hopens).ge)
  exact exec_of_reaches h
    ((hrb.trans hsb).trans ⟨1, le_rfl, ceSteps_complete (code_getElem?_head_of_drop hcodeEnd)⟩) rfl

/-- Settles O11: the open that fails is the first one asked for, or the second after the first succeeded. -/
theorem busOpenFails : Obligations.BusOpenFails := by
  intro mask s h
  have hcodeRb := busOpenProg_drop_zero mask
  have hcodeSb := code_drop_of_append hcodeRb
  refine ⟨fun hrb hdown hfail => exec_of_reaches h ?first rfl,
    fun hrb hrbDown hsb hsbDown hok hfail => exec_of_reaches h ?second rfl,
    fun hpass hsb hdown hfail => exec_of_reaches h ?onlySerial rfl⟩
  case first =>
    rw [hrb] at hcodeRb
    exact (reaches_openOps_failed rfl rfl hcodeRb hdown hfail).mono (by decide)
  case second =>
    rw [hrb] at hcodeRb
    rw [hrb, hsb] at hcodeSb
    exact (reaches_openOps_opened hcodeRb hrbDown hok).trans (reaches_openOps_failed rfl rfl hcodeSb hsbDown hfail)
  case onlySerial =>
    rw [hsb] at hcodeSb
    exact (reaches_openOps_passed hcodeRb hpass).trans (reaches_openOps_failed rfl rfl hcodeSb hdown hfail)

/-! ## BUS_CLOSE (R144) -/

section
variable {p : Prog} {pos taken : Nat} {s : State} {f : Flight} {events : List Event} {bus : BusState} {wanted : Bool}
  {rest : List Op}

theorem reaches_closeRbOps (hcode : p.code.drop pos = closeRbOps wanted ++ rest) :
    Reaches p 3 ((s.reached taken events bus).goto f pos)
      ((s.reached taken (events ++ if wanted && bus.rbUp then [.busClose .rb] else [])
        { bus with rbUp := bus.rbUp && !wanted }).goto f (pos + (closeRbOps wanted).length)) := by
  cases wanted with
  | false =>
    rw [Bool.false_and, if_neg Bool.false_ne_true, List.append_nil, Bool.not_false, Bool.and_true]
    exact ⟨0, Nat.zero_le _, rfl⟩
  | true =>
    rw [Bool.true_and, Bool.not_true, Bool.and_false]
    cases hup : bus.rbUp with
    | false =>
      have hbus : { bus with rbUp := false } = bus := by rw [← hup]
      rw [if_neg Bool.false_ne_true, List.append_nil, hbus]
      exact ⟨1, by decide, ceSteps_skip (code_getElem?_head_of_drop hcode) (by simp [BusState.up, hup])⟩
    | true =>
      refine ⟨3, le_rfl, ?_⟩
      rw [ceSteps_noSkip (code_getElem?_head_of_drop hcode) (by simp [BusState.up, hup]),
        ceSteps_busClose (code_getElem?_of_drop hcode 1), ceSteps_setUp (code_getElem?_of_drop hcode 2)]
      rfl

/-- Chip select is released, where it is asserted, before the serial bus is closed. -/
theorem reaches_closeSbOps (hcode : p.code.drop pos = closeSbOps wanted ++ rest) :
    Reaches p 4 ((s.reached taken events bus).goto f pos)
      ((s.reached taken
        (events ++ if wanted && bus.sbUp then (if bus.cs then [.sbCs false] else []) ++ [.busClose .sb] else [])
        { bus with sbUp := bus.sbUp && !wanted, cs := bus.cs && !(wanted && bus.sbUp) }).goto f
          (pos + (closeSbOps wanted).length)) := by
  cases wanted with
  | false =>
    simp only [Bool.false_and, Bool.not_false, Bool.and_true, Bool.false_eq_true, if_false, List.append_nil]
    exact ⟨0, Nat.zero_le _, rfl⟩
  | true =>
    cases hup : bus.sbUp with
    | false =>
      have hbus : { bus with sbUp := false } = bus := by rw [← hup]
      simp only [Bool.and_false, Bool.false_and, Bool.not_false, Bool.and_true, Bool.false_eq_true, if_false,
        List.append_nil, hbus]
      exact ⟨1, by decide, ceSteps_skip (code_getElem?_head_of_drop hcode) (by simp [BusState.up, hup])⟩
    | true =>
      refine ⟨4, le_rfl, ?_⟩
      rw [ceSteps_noSkip (code_getElem?_head_of_drop hcode) (by simp [BusState.up, hup]),
        ceSteps_csRelease (code_getElem?_of_drop hcode 1), ceSteps_busClose (code_getElem?_of_drop hcode 2),
        ceSteps_setUp (code_getElem?_of_drop hcode 3), List.append_assoc]
      simp only [Bool.and_self, Bool.not_true, Bool.and_false, if_true]
      rfl

end

theorem busCloseProg_drop_zero (mask : BitVec 2) :
    (busCloseProg mask).code.drop 0 =
      closeRbOps (mask.getLsbD 0) ++ (closeSbOps (mask.getLsbD 1) ++ (.complete .zero :: reportHandler)) := by
  simp [Prog.code, busCloseProg]

/-- Settles O12: the two buses one after the other, then the end. -/
theorem busCloseCompletes : Obligations.BusCloseCompletes := by
  intro mask s h closesRb closesSb
  have hcodeSb := code_drop_of_append (busCloseProg_drop_zero mask)
  have hcodeEnd := code_drop_of_append hcodeSb
  refine exec_of_reaches h ?_ rfl
  exact ((reaches_closeRbOps (busCloseProg_drop_zero mask)).trans (reaches_closeSbOps hcodeSb)).trans
    ⟨1, le_rfl, ceSteps_complete (code_getElem?_head_of_drop hcodeEnd)⟩

end Sys2Proof.Machine

/-! # The configuration sequencer (41_config_sequencer.md R180 to R188)

CFG_APPLY and CFG_READ walk a list of entries with one pseudocode (`listProg`), which differs in the frame and in what is
stored after it. At the head of the loop the locals tell how many entries are completed (`Flight.AtEntry`); one round
takes the engine from one head to the next, and from a head the list ends in one of four ways. -/

namespace Sys2Proof.Machine

/-! ## The operations of the sequencer -/

/-- What the engine reads from CFGMEM depends on the bytes written and on the number of resets. -/
theorem State.cfgByte_congr {s t : State} (hmem : s.cfgmem = t.cfgmem) (hepoch : s.world.epoch = t.world.epoch)
    (a : Nat) : s.cfgByte a = t.cfgByte a := by
  rw [State.cfgByte, State.cfgByte, hmem, hepoch]

theorem State.cfgWordAt_congr {s t : State} (h : ∀ a, s.cfgByte a = t.cfgByte a) (i : Nat) :
    s.cfgWordAt i = t.cfgWordAt i := by
  simp only [State.cfgWordAt, h]

theorem State.reached_goto_cfgWordAt {s : State} {taken : Nat} {events : List Event} {bus : BusState} (f : Flight)
    (pos i : Nat) :
    ((s.reached taken events bus).goto f pos).cfgWordAt i = s.cfgWordAt i :=
  State.cfgWordAt_congr (s := (s.reached taken events bus).goto f pos) (t := s)
    (State.cfgByte_congr rfl (World.skipAnswers_epoch taken s.world.dropTurn)) i

section
variable {p : Prog} {n pos taken : Nat} {s : State} {f : Flight} {events : List Event} {bus : BusState}

theorem ceSteps_delay {t : Wait} (hop : p.code[pos]? = some (.delay t)) :
    ceSteps p (n + 1) ((s.reached taken events bus).goto f pos) =
      ceSteps p n ((s.reached taken (events ++ [.delay t]) bus).goto f (pos + 1)) := by
  rw [ceSteps_op rfl hop, ← State.reached_record]
  rfl

theorem ceSteps_back {count : Nat} (hop : p.code[pos]? = some (.back count)) :
    ceSteps p (n + 1) (s.goto f pos) = ceSteps p n (s.goto f (pos - count)) := by
  rw [ceSteps_op rfl hop]
  rfl

theorem ceSteps_startList {base : BitVec 16} (hop : p.code[pos]? = some (.startList base)) :
    ceSteps p (n + 1) (s.goto f pos) = ceSteps p n (s.goto { f with n := 0#32, i := base.toNat } (pos + 1)) := by
  rw [ceSteps_op rfl hop]
  rfl

theorem ceSteps_nextEntry (hop : p.code[pos]? = some .nextEntry) :
    ceSteps p (n + 1) (s.goto f pos) = ceSteps p n (s.goto { f with n := f.n + 1#32, i := f.i + 1 } (pos + 1)) := by
  rw [ceSteps_op rfl hop]
  rfl

theorem ceSteps_readEntry (hop : p.code[pos]? = some .readEntry) (hi : f.i < s.params.cfgWords) :
    ceSteps p (n + 1) ((s.reached taken events bus).goto f pos) =
      ceSteps p n ((s.reached taken (events ++ [.cfgRead f.i (s.cfgWordAt f.i)]) bus).goto
        { f with e := s.cfgWordAt f.i } (pos + 1)) := by
  rw [ceSteps_op rfl hop, runOp_readEntry, State.ceReadCfg, if_pos (by exact hi), State.reached_goto_cfgWordAt,
    ← State.reached_record]
  rfl

theorem ceSteps_writeBack (hop : p.code[pos]? = some .writeBack) (hi : f.i < s.params.cfgWords) :
    ceSteps p (n + 1) ((s.reached taken events bus).goto f pos) =
      ceSteps p n ((({ s with cfgmem := s.cfgmem.setWord f.i (entryWithVal f.e f.v) } : State).reached taken
        (events ++ [.cfgWrite f.i (entryWithVal f.e f.v)]) bus).goto f (pos + 1)) := by
  rw [ceSteps_op rfl hop, runOp_writeBack, State.ceWriteCfg, if_pos (by exact hi), ← State.reached_record]
  rfl

theorem ceSteps_rbWriteEntry (hop : p.code[pos]? = some .rbWriteEntry) (hok : (s.world.answerAt taken).isOk = true) :
    ceSteps p (n + 1) ((s.reached taken events bus).goto f pos) =
      ceSteps p n ((s.reached (taken + 1)
        (events ++ [.rbWrite (rbWriteBytes s.cfg.aw (entryAddr f.e) (entryVal f.e)) none]) bus).goto f (pos + 1)) :=
  ceSteps_settle_none hop (by
    rw [runOp_rbWriteEntry, State.rbWriteFrame, State.reached_goto_answer, Answer.ok_of_isOk hok, Answer.rbError_ok]
    rfl)

theorem ceSteps_rbReadEntry (hop : p.code[pos]? = some .rbReadEntry) (hok : (s.world.answerAt taken).isOk = true) :
    ceSteps p (n + 1) ((s.reached taken events bus).goto f pos) =
      ceSteps p n ((s.reached (taken + 1)
        (events ++ [.rbRead (rbReadBytes s.cfg.aw (entryAddr f.e)) (.byte (s.world.byteAt taken))]) bus).goto
          { f with v := s.world.byteAt taken } (pos + 1)) :=
  ceSteps_settle_none hop (by
    rw [runOp_rbReadEntry, State.rbReadFrame, State.reached_goto_answer, Answer.ok_of_isOk hok, Answer.rbError_ok]
    rfl)

/-! ## Errors that leave the number of entries in RESULT (R188) -/

theorem State.raise_of_entries {e : Err} (hp : p.errResult = .entries) : s.raise p f e = s.finish (some e) f.n := by
  rw [State.raise, hp]

theorem ceSteps_raise_entries {c : Cond} {e : Err} (hp : p.errResult = .entries)
    (hop : p.code[pos]? = some (.raiseIf c e))
    (hc : c.holds { f with pos := pos } ((s.reached taken events bus).goto f pos) = true) :
    ceSteps p (n + 1) ((s.reached taken events bus).goto f pos) =
      { s.completed taken events (some e) f.n with bus := bus } := by
  rw [ceSteps_op rfl hop, runOp_raiseIf, if_pos hc, State.raise_of_entries hp]
  exact ceSteps_idle _ _ rfl

/-- A failed frame is reported with the number of entries completed. -/
theorem ceSteps_failedFrame_entries {op : Op} {event : Event} {e : Err} (hh : p.handler = reportHandler)
    (hp : p.errResult = .entries) (hop : p.code[pos]? = some op)
    (hrun : runOp p { f with pos := pos } ((s.reached taken events bus).goto f pos) op =
      (((s.reached taken events bus).goto f pos).answered.record event).fail p { f with pos := pos } e) :
    ceSteps p (n + 2) ((s.reached taken events bus).goto f pos) =
      { s.completed (taken + 1) (events ++ [event]) (some e) f.n with bus := bus } := by
  have hreraise : p.code[p.main.length]? = some .reraise := by
    rw [Prog.code, hh, List.getElem?_append_right le_rfl, Nat.sub_self]
    rfl
  rw [ceSteps_op rfl hop, hrun, ceSteps_op rfl hreraise, runOp_reraise]
  refine (congrArg _ (State.raise_of_entries hp)).trans ((ceSteps_idle p n rfl).trans ?_)
  rw [← State.reached_finish, ← State.reached_answered_record]
  rfl

end

/-! ## The pseudocode of both commands -/

/-- The pseudocode that CFG_APPLY and CFG_READ share: the head of an entry, its frame between two delays, what is stored
after it, and the way back to the head. -/
def listProg (base : BitVec 16) (frame : Op) (store : List Op) : Prog where
  main := listStartOps base ++ entryHeadOps ++
    ([.delay .settle, frame, .delay .settle] ++ store ++ [.nextEntry, .back (9 + store.length)])
  handler := reportHandler
  errResult := .entries

theorem progOf_cfgApply (q : Params) (base : BitVec 16) :
    progOf q (.cfgApply base) = listProg base .rbWriteEntry [] := rfl

theorem progOf_cfgRead (q : Params) (base : BitVec 16) :
    progOf q (.cfgRead base) = listProg base .rbReadEntry [.writeBack] := rfl

/-- The locals at the head of the loop where `j` entries are completed. -/
structure Flight.AtEntry (f : Flight) (base j : Nat) : Prop where
  index : f.i = base + j
  count : f.n = BitVec.ofNat 32 j

/-- An entry that is neither malformed nor the sentinel (R181, R113). -/
def ordinaryEntry (aw : Bool) (w : Word) : Prop := entryMalformed aw w = false ∧ isSentinel aw w = false

section
variable {base : BitVec 16} {frame : Op} {store : List Op} {n taken b j : Nat} {s : State} {f : Flight}
  {events : List Event} {bus : BusState} {w : Word}

theorem Flight.AtEntry.next {g : Flight} (h : f.AtEntry b j) (hi : g.i = f.i + 1) (hn : g.n = f.n + 1#32) :
    g.AtEntry b (j + 1) where
  index := by rw [hi, h.index, Nat.add_assoc]
  count := by rw [hn, h.count, BitVec.ofNat_add]

/-- Before the end of CFGMEM the entry is read (R185, R180). -/
theorem ceSteps_listEntry (hf : f.AtEntry b j) (hi : b + j < s.params.cfgWords) (hw : s.cfgWordAt (b + j) = w) :
    ceSteps (listProg base frame store) (n + 2) ((s.reached taken events bus).goto f 2) =
      ceSteps (listProg base frame store) n
        ((s.reached taken (events ++ [.cfgRead (b + j) w]) bus).goto { f with e := w } 4) := by
  have hlt : f.i < s.params.cfgWords := hf.index ▸ hi
  rw [ceSteps_passCheck rfl (by exact decide_eq_false (Nat.not_le.2 hlt)), ceSteps_readEntry rfl hlt, hf.index, hw]

theorem ceSteps_wellFormedEntry (hf : f.AtEntry b j) (hi : b + j < s.params.cfgWords) (hw : s.cfgWordAt (b + j) = w)
    (hwell : entryMalformed s.cfg.aw w = false) :
    ceSteps (listProg base frame store) (n + 3) ((s.reached taken events bus).goto f 2) =
      ceSteps (listProg base frame store) n
        ((s.reached taken (events ++ [.cfgRead (b + j) w]) bus).goto { f with e := w } 5) := by
  rw [ceSteps_listEntry hf hi hw, ceSteps_passCheck rfl (by simpa using hwell)]

/-- The engine stands in front of the frame of an entry that does not end the list. -/
theorem ceSteps_entryHead (hf : f.AtEntry b j) (hi : b + j < s.params.cfgWords) (hw : s.cfgWordAt (b + j) = w)
    (hord : ordinaryEntry s.cfg.aw w) :
    ceSteps (listProg base frame store) (n + 5) ((s.reached taken events bus).goto f 2) =
      ceSteps (listProg base frame store) n
        ((s.reached taken (events ++ [.cfgRead (b + j) w, .delay .settle]) bus).goto { f with e := w } 8) := by
  obtain ⟨hwell, hnot⟩ := hord
  rw [ceSteps_wellFormedEntry hf hi hw hwell, ceSteps_skip rfl (by simpa using hnot), ceSteps_delay rfl,
    List.append_assoc]
  rfl

/-! ## The ends of a list -/

/-- The end of CFGMEM (R185). -/
theorem reaches_listOverrun (hf : f.AtEntry b j) (hend : s.params.cfgWords ≤ b + j) :
    Reaches (listProg base frame store) 1 ((s.reached taken events s.bus).goto f 2)
      (s.completed taken events (some .listOverrun) (BitVec.ofNat 32 j)) := by
  have hle : s.params.cfgWords ≤ f.i := hf.index ▸ hend
  refine ⟨1, le_rfl, ?_⟩
  rw [ceSteps_raise_entries rfl rfl (by exact decide_eq_true hle), hf.count]
  rfl

/-- A malformed entry (R181). -/
theorem reaches_malformedEntry (hf : f.AtEntry b j) (hi : b + j < s.params.cfgWords) (hw : s.cfgWordAt (b + j) = w)
    (hbad : entryMalformed s.cfg.aw w = true) :
    Reaches (listProg base frame store) 3 ((s.reached taken events s.bus).goto f 2)
      (s.completed taken (events ++ [.cfgRead (b + j) w]) (some .malformedEntry) (BitVec.ofNat 32 j)) := by
  refine ⟨3, le_rfl, ?_⟩
  rw [ceSteps_listEntry hf hi hw, ceSteps_raise_entries rfl rfl (by simpa using hbad), hf.count]
  rfl

/-- The sentinel, which is read and nothing more (R183). -/
theorem reaches_sentinel (hf : f.AtEntry b j) (hi : b + j < s.params.cfgWords) (hw : s.cfgWordAt (b + j) = w)
    (hwell : entryMalformed s.cfg.aw w = false) (hsent : isSentinel s.cfg.aw w = true) :
    Reaches (listProg base frame store) 5 ((s.reached taken events s.bus).goto f 2)
      (s.completed taken (events ++ [.cfgRead (b + j) w]) none (BitVec.ofNat 32 j)) := by
  refine ⟨5, le_rfl, ?_⟩
  rw [ceSteps_wellFormedEntry hf hi hw hwell, ceSteps_noSkip rfl (by simpa using hsent), ceSteps_complete rfl,
    ← hf.count]
  rfl

/-- A failed frame, between the first delay and the second (R188). -/
theorem reaches_failedFrame {event : Event} {e : Err} (hf : f.AtEntry b j) (hi : b + j < s.params.cfgWords)
    (hw : s.cfgWordAt (b + j) = w) (hord : ordinaryEntry s.cfg.aw w)
    (hframe : ∀ p g (t : State), g.e = w → t.cfg = s.cfg → t.answer = s.world.answerAt taken →
      runOp p g t frame = (t.answered.record event).fail p g e) :
    Reaches (listProg base frame store) 7 ((s.reached taken events s.bus).goto f 2)
      (s.completed (taken + 1) (events ++ [.cfgRead (b + j) w, .delay .settle, event]) (some e)
        (BitVec.ofNat 32 j)) := by
  refine ⟨7, le_rfl, ?_⟩
  rw [ceSteps_entryHead hf hi hw hord, ceSteps_failedFrame_entries rfl rfl rfl
    (hframe _ _ _ rfl rfl (State.reached_goto_answer _ _)), List.append_assoc, hf.count]
  rfl

end

/-! ## The walk along a list -/

/-- Rounds of the loop in a row, each of which takes the engine from one head to the next in at most `k` steps. -/
theorem reaches_rounds {p : Prog} {b k m : Nat} {stage : Nat → State} {f : Flight} (hf : f.AtEntry b 0)
    (hround : ∀ j < m, ∀ g : Flight, g.AtEntry b j →
      ∃ g' : Flight, g'.AtEntry b (j + 1) ∧ Reaches p k ((stage j).goto g 2) ((stage (j + 1)).goto g' 2)) :
    ∃ g : Flight, g.AtEntry b m ∧ Reaches p (k * m) ((stage 0).goto f 2) ((stage m).goto g 2) := by
  induction m with
  | zero => exact ⟨f, hf, 0, Nat.zero_le _, rfl⟩
  | succ m ih =>
    obtain ⟨g, hg, hwalk⟩ := ih fun j hj => hround j (Nat.lt_succ_of_lt hj)
    obtain ⟨g', hg', hstep⟩ := hround m (Nat.lt_succ_self m) g hg
    exact ⟨g', hg', hwalk.trans hstep⟩

section
variable {i : Instr} {base : BitVec 16} {frame : Op} {store : List Op} {steps k l m : Nat} {s t : State}

/-- The whole of a list command: the bus check, the rounds, and the end from the last head. -/
theorem exec_list {stage : Nat → State} (hp : progOf s.params i = listProg base frame store) (h : Starts i steps s)
    (hsteps : 2 + k * m + l ≤ steps) (hup : s.bus.rbUp = true) (hstage : stage 0 = s.reached 0 [] s.bus)
    (hround : ∀ j < m, ∀ g : Flight, g.AtEntry base.toNat j → ∃ g' : Flight, g'.AtEntry base.toNat (j + 1) ∧
      Reaches (listProg base frame store) k ((stage j).goto g 2) ((stage (j + 1)).goto g' 2))
    (hend : ∀ g : Flight, g.AtEntry base.toNat m → Reaches (listProg base frame store) l ((stage m).goto g 2) t)
    (hc : t.ce = none) : exec i s = .next t := by
  have hstart : Reaches (listProg base frame store) 2 ((s.reached 0 [] s.bus).goto (Flight.start (encode i)) 0)
      ((stage 0).goto { Flight.start (encode i) with n := 0#32, i := base.toNat } 2) := by
    refine ⟨2, le_rfl, ?_⟩
    rw [ceSteps_passCheck rfl (by simp [BusState.up, hup]), ceSteps_startList rfl, hstage]
    rfl
  obtain ⟨g, hg, hwalk⟩ := reaches_rounds
    (f := { Flight.start (encode i) with n := 0#32, i := base.toNat }) ⟨rfl, rfl⟩ hround
  exact exec_of_reaches h (hp ▸ ((hstart.trans hwalk).trans (hend g hg)).mono hsteps) hc

/-- A closed bus ends the command before the first entry (R182). -/
theorem exec_list_busDown (hp : progOf s.params i = listProg base frame store) (h : Starts i steps s)
    (hsteps : 1 ≤ steps) (hdown : s.bus.rbUp = false) :
    exec i s = .next (s.completed 0 [] (some .busUnavailable) 0#32) := by
  refine exec_of_ceSteps_reached ⟨h.1, hsteps.trans h.2⟩ ?_ rfl
  rw [hp, ceSteps_raise_entries rfl rfl (by simp [BusState.up, hdown])]
  rfl

end

/-! ## CFG_APPLY (R182) -/

theorem applyEvents_succ (s : State) (base j : Nat) :
    applyEvents s base (j + 1) = applyEvents s base j ++
      [.cfgRead (base + j) (s.cfgWordAt (base + j)), .delay .settle,
       .rbWrite (rbWriteBytes s.cfg.aw (entryAddr (s.cfgWordAt (base + j))) (entryVal (s.cfgWordAt (base + j)))) none,
       .delay .settle] := by
  simp [applyEvents, List.range_succ]

/-- The state at the head of the loop of CFG_APPLY where `j` entries are written. -/
def State.applied (s : State) (base j : Nat) : State := s.reached j (applyEvents s base j) s.bus

section
variable {base : BitVec 16} {steps l m : Nat} {s t : State}

/-- One round of CFG_APPLY writes one entry. -/
theorem reaches_applied_succ {j : Nat} {f : Flight} (hf : f.AtEntry base.toNat j)
    (hi : base.toNat + j < s.params.cfgWords) (hord : ordinaryEntry s.cfg.aw (s.cfgWordAt (base.toNat + j)))
    (hok : (s.world.answerAt j).isOk = true) :
    ∃ g : Flight, g.AtEntry base.toNat (j + 1) ∧ Reaches (listProg base .rbWriteEntry []) 9
      ((s.applied base.toNat j).goto f 2) ((s.applied base.toNat (j + 1)).goto g 2) := by
  refine ⟨{ f with e := s.cfgWordAt (base.toNat + j), n := f.n + 1#32, i := f.i + 1 }, hf.next rfl rfl, 9, le_rfl,
    ?_⟩
  rw [State.applied, ceSteps_entryHead hf hi rfl hord, ceSteps_rbWriteEntry rfl hok, ceSteps_delay rfl,
    ceSteps_nextEntry rfl, ceSteps_back rfl, List.append_assoc, List.append_assoc, State.applied, applyEvents_succ]
  rfl

theorem exec_cfgApply (h : Starts (.cfgApply base) steps s) (hsteps : 2 + 9 * m + l ≤ steps) (hup : s.bus.rbUp = true)
    (hlist : ListEntries s base.toNat m) (hok : s.world.answersOk m)
    (hend : ∀ g : Flight, g.AtEntry base.toNat m →
      Reaches (listProg base .rbWriteEntry []) l ((s.applied base.toNat m).goto g 2) t)
    (hc : t.ce = none) : exec (.cfgApply base) s = .next t := by
  refine exec_list (progOf_cfgApply _ _) h hsteps hup rfl (fun j hj g hg => ?_) hend hc
  obtain ⟨hi, hord⟩ := hlist j hj
  exact reaches_applied_succ hg hi hord (hok j hj)

end

/-- Settles O19: the rounds of the list end at the sentinel. -/
theorem cfgApplyWritesListInOrder : Obligations.CfgApplyWritesListInOrder := by
  intro base m s h hup hlist ⟨hi, hwell, hsent⟩ hok
  refine ⟨exec_cfgApply h (by omega) hup hlist hok (fun g hg => reaches_sentinel hg hi rfl hwell hsent) rfl,
    fun e => ?_⟩
  cases s.cfg.aw
  case false => exact congrArg (fun lo => [lo, entryVal e]) (extract_extract e 0 0 (by decide))
  case true =>
    exact congrArg₂ (fun hi lo => [hi, lo, entryVal e]) (hiByte_entryAddr e) (extract_extract e 0 0 (by decide))

/-- Settles O20: the closed bus before the rounds, the other errors at the head that the rounds reach. -/
theorem cfgApplyErrorsCountEntries : Obligations.CfgApplyErrorsCountEntries := by
  intro base m s h
  refine ⟨exec_list_busDown (progOf_cfgApply _ _) h (by omega), fun hup hlist hok =>
    ⟨fun hover => ?overrun, fun hi hbad => ?malformed, fun e hlist' he => ?failedFrame⟩⟩
  case overrun =>
    exact exec_cfgApply h (by omega) hup hlist hok (fun g hg => reaches_listOverrun hg hover) rfl
  case malformed =>
    exact exec_cfgApply h (by omega) hup hlist hok (fun g hg => reaches_malformedEntry hg hi rfl hbad) rfl
  case failedFrame =>
    obtain ⟨hi, hord⟩ := hlist' m (Nat.lt_succ_self m)
    refine exec_cfgApply (l := 7) h (by omega) hup hlist hok (fun g hg => reaches_failedFrame hg hi rfl hord ?_) rfl
    intro p g t hw hcfg hanswer
    rw [runOp_rbWriteEntry, State.rbWriteFrame_of_error (hanswer ▸ he), hw, hcfg]

/-! ## CFG_READ (R186) -/

/-- CFGMEM after `j` entries are read back. -/
def State.readBack (s : State) (base j : Nat) : State := { s with cfgmem := readBackMemory s base j }

section
variable (s : State) (base : Nat)

/-- The bytes outside the entries read back are kept. -/
theorem State.readBack_cfgByte {m a : Nat} (h : a < 4 * base ∨ 4 * (base + m) ≤ a) :
    (s.readBack base m).cfgByte a = s.cfgByte a := by
  induction m with
  | zero => rfl
  | succ m ih =>
    rw [← ih (by omega)]
    simp only [State.cfgByte, State.readBack, readBackMemory]
    rw [Memory.get?_setWord_other _ _ _ _ (by omega)]

/-- An entry that is not read back yet is as before. -/
theorem State.readBack_cfgWordAt_of_le {m j : Nat} (h : m ≤ j) :
    (s.readBack base m).cfgWordAt (base + j) = s.cfgWordAt (base + j) := by
  induction m with
  | zero => rfl
  | succ m ih =>
    exact ((s.readBack base m).cfgWordAt_setWord_other _ _ _ (by omega)).trans (ih (by omega))

theorem State.readBack_cfgWordAt_of_lt {m j : Nat} (h : j < m) :
    (s.readBack base m).cfgWordAt (base + j) = readBackEntry s base j := by
  induction m with
  | zero => exact absurd h (Nat.not_lt_zero j)
  | succ m ih =>
    obtain hlt | rfl := Nat.lt_succ_iff_lt_or_eq.1 h
    · exact ((s.readBack base m).cfgWordAt_setWord_other _ _ _ (by omega)).trans (ih hlt)
    · exact (s.readBack base j).cfgWordAt_setWord_same _ _

theorem readBackEvents_succ (j : Nat) :
    readBackEvents s base (j + 1) = readBackEvents s base j ++
      [.cfgRead (base + j) (s.cfgWordAt (base + j)), .delay .settle,
       .rbRead (rbReadBytes s.cfg.aw (entryAddr (s.cfgWordAt (base + j)))) (.byte (s.world.byteAt j)), .delay .settle,
       .cfgWrite (base + j) (readBackEntry s base j)] := by
  simp [readBackEvents, List.range_succ]

/-- The state at the head of the loop of CFG_READ where `j` entries are read back. -/
def State.collected (j : Nat) : State := (s.readBack base j).reached j (readBackEvents s base j) s.bus

end

/-! ### The fields of an entry with its value replaced (R186) -/

section
variable (e : Word) (v : Byte)

/-- The mask of `entryWithVal` clears the value. -/
theorem cleared_entryVal : e &&& 0xFF00FFFF#32 = (e.extractLsb' 24 8 ++ 0#8) ++ e.extractLsb' 0 16 := by
  have hhigh : e.extractLsb' 16 16 &&& ~~~0x00FF#16 = e.extractLsb' 24 8 ++ 0#8 := by
    rw [← extract_extract (n := 16) e 16 8 (by decide)]
    exact (high_append_zero (m := 8) (n := 8) _).symm
  calc e &&& 0xFF00FFFF#32
    _ = e &&& ~~~(0x00FF#16 ++ 0#16 : BitVec (16 + 16)) := rfl
    _ = _ := by rw [← cleared_append_cleared (m := 16) (n := 16), and_not_zero, hhigh]

/-- The new value stands in the place that was cleared. -/
theorem shifted_entryVal : zext32 v <<< 16 = (0#8 ++ v) ++ 0#16 := by
  rw [zext32, BitVec.shiftLeft_eq_concat_of_lt (by decide), ← BitVec.setWidth_eq_extractLsb' (by decide),
    BitVec.setWidth_setWidth_of_le _ (by decide), BitVec.setWidth_eq_append (by decide)]
  rfl

theorem entryWithVal_eq_append : entryWithVal e v = (e.extractLsb' 24 8 ++ v) ++ e.extractLsb' 0 16 := by
  rw [entryWithVal, cleared_entryVal, shifted_entryVal, BitVec.or_append, BitVec.or_append, BitVec.or_zero,
    BitVec.zero_or, BitVec.or_zero]

theorem entryWithVal_low : (entryWithVal e v).extractLsb' 0 16 = e.extractLsb' 0 16 := by
  rw [entryWithVal_eq_append]
  exact extract_append_low _ _

/-- The upper half of the new entry. -/
theorem entryWithVal_upper : (entryWithVal e v).extractLsb' 16 16 = e.extractLsb' 24 8 ++ v := by
  rw [entryWithVal_eq_append]
  exact extract_append_high _ _

theorem entryWithVal_val : (entryWithVal e v).extractLsb' 16 8 = v := by
  rw [← extract_extract (n := 16) _ 16 0 (by decide), entryWithVal_upper]
  exact extract_append_low _ _

theorem entryWithVal_high : (entryWithVal e v).extractLsb' 24 8 = e.extractLsb' 24 8 := by
  rw [← extract_extract (n := 16) _ 16 8 (by decide), entryWithVal_upper]
  exact extract_append_high _ _

end

section
variable {base : BitVec 16} {steps l m : Nat} {s t : State}

/-- One round of CFG_READ reads one entry's register and writes the entry back. -/
theorem reaches_collected_succ {j : Nat} {f : Flight} (hf : f.AtEntry base.toNat j)
    (hi : base.toNat + j < s.params.cfgWords) (hord : ordinaryEntry s.cfg.aw (s.cfgWordAt (base.toNat + j)))
    (hok : (s.world.answerAt j).isOk = true) :
    ∃ g : Flight, g.AtEntry base.toNat (j + 1) ∧ Reaches (listProg base .rbReadEntry [.writeBack]) 10
      ((s.collected base.toNat j).goto f 2) ((s.collected base.toNat (j + 1)).goto g 2) := by
  have hlt : f.i < s.params.cfgWords := hf.index ▸ hi
  refine ⟨{ f with e := s.cfgWordAt (base.toNat + j), v := s.world.byteAt j, n := f.n + 1#32, i := f.i + 1 },
    hf.next rfl rfl, 10, le_rfl, ?_⟩
  rw [State.collected, ceSteps_entryHead (s := s.readBack base.toNat j) hf hi
    (s.readBack_cfgWordAt_of_le base.toNat le_rfl) hord, ceSteps_rbReadEntry (s := s.readBack base.toNat j) rfl hok,
    ceSteps_delay rfl, ceSteps_writeBack rfl (by exact hlt), ceSteps_nextEntry rfl, ceSteps_back rfl,
    List.append_assoc, List.append_assoc, List.append_assoc, State.collected, readBackEvents_succ]
  simp only [hf.index]
  rfl

theorem exec_cfgRead (h : Starts (.cfgRead base) steps s) (hsteps : 2 + 10 * m + l ≤ steps) (hup : s.bus.rbUp = true)
    (hlist : ListEntries s base.toNat m) (hok : s.world.answersOk m)
    (hend : ∀ g : Flight, g.AtEntry base.toNat m →
      Reaches (listProg base .rbReadEntry [.writeBack]) l ((s.collected base.toNat m).goto g 2) t)
    (hc : t.ce = none) : exec (.cfgRead base) s = .next t := by
  refine exec_list (progOf_cfgRead _ _) h hsteps hup rfl (fun j hj g hg => ?_) hend hc
  obtain ⟨hi, hord⟩ := hlist j hj
  exact reaches_collected_succ hg hi hord (hok j hj)

end

/-- Settles O21: the rounds of the list end at the sentinel; what CFGMEM holds then is told by the laws of `readBack`. -/
theorem cfgReadReplacesValues : Obligations.CfgReadReplacesValues := by
  intro base m s h hup hlist ⟨hi, hwell, hsent⟩ hok t
  have hbyte : ∀ a, t.cfgByte a = (s.readBack base.toNat m).cfgByte a :=
    State.cfgByte_congr rfl (World.skipAnswers_epoch _ _)
  have hentry : ∀ j < m, t.cfgWordAt (base.toNat + j) =
      entryWithVal (s.cfgWordAt (base.toNat + j)) (s.world.byteAt j) := fun j hj =>
    (State.cfgWordAt_congr hbyte _).trans (s.readBack_cfgWordAt_of_lt base.toNat hj)
  have hword := s.readBack_cfgWordAt_of_le base.toNat (le_refl m)
  refine ⟨exec_cfgRead h (by omega) hup hlist hok
      (fun g hg => reaches_sentinel (s := s.readBack base.toNat m) hg hi hword hwell hsent) rfl,
    fun j hj => ?_, fun a ha => (hbyte a).trans (s.readBack_cfgByte base.toNat ha)⟩
  rw [hentry j hj]
  exact ⟨rfl, entryWithVal_low _ _, entryWithVal_val _ _, entryWithVal_high _ _⟩

/-- Settles O22: the closed bus before the rounds, the other errors at the head that the rounds reach, where CFGMEM holds
the entries read back. -/
theorem cfgReadErrorsCountEntries : Obligations.CfgReadErrorsCountEntries := by
  intro base m s h
  have hword : (s.readBack base.toNat m).cfgWordAt (base.toNat + m) = s.cfgWordAt (base.toNat + m) :=
    s.readBack_cfgWordAt_of_le base.toNat le_rfl
  refine ⟨exec_list_busDown (progOf_cfgRead _ _) h (by omega), fun hup hlist hok =>
    ⟨fun hover => ?overrun, fun hi hbad => ?malformed, fun e hlist' he => ?failedFrame⟩⟩
  case overrun =>
    exact exec_cfgRead h (by omega) hup hlist hok
      (fun g hg => reaches_listOverrun (s := s.readBack base.toNat m) hg hover) rfl
  case malformed =>
    exact exec_cfgRead h (by omega) hup hlist hok
      (fun g hg => reaches_malformedEntry (s := s.readBack base.toNat m) hg hi hword hbad) rfl
  case failedFrame =>
    obtain ⟨hi, hord⟩ := hlist' m (Nat.lt_succ_self m)
    refine exec_cfgRead (l := 7) h (by omega) hup hlist hok
      (fun g hg => reaches_failedFrame (s := s.readBack base.toNat m) hg hi hword hord ?_) rfl
    intro p g t hw hcfg hanswer
    rw [runOp_rbReadEntry, State.rbReadFrame_of_error (hanswer ▸ he), hw, hcfg]
    rfl

end Sys2Proof.Machine

/-! # The engine's point in a command (10_state.md R45, R50; 42_fifo_capture.md R210, R211)

What one atomic step does to the position, the locals and the buses, said once for every operation; and the checks of a
pseudocode's layout under which each step keeps what the passed operations tell (`Flight.Sound`). A check is a Boolean
over the edges of the pseudocode, evaluated for each command. -/

namespace Sys2Proof.Machine

/-! ## One atomic step: position, locals, buses -/

/-- Where a command goes on after an operation that neither ends it nor fails nor stands still. -/
def Op.targets (pos : Nat) : Op → List Nat
  | .complete _ | .reraise | .awaitEdge => []
  | .skipIf _ count => [pos + 1, pos + 1 + count]
  | .back count => [pos - count]
  | _ => [pos + 1]

/-- The operation can hand an error to the handler. -/
def Op.canFail : Op → Bool
  | .failIf _ _ | .rbWrite _ _ | .rbWriteEntry | .rbRead _ | .rbReadEntry | .xfer _ _ | .busOpen _ => true
  | _ => false

/-- The locals after an operation that does not fail; the position is not looked at. -/
def Op.localsAfter (f : Flight) (s : State) : Op → Flight
  | .rbRead _ | .rbReadEntry => { f with v := s.answer.byte }
  | .xfer _ slot => f.keep s.answer.byte slot
  | .startList base => { f with n := 0#32, i := base.toNat }
  | .readEntry => { f with e := s.cfgWordAt f.i }
  | .nextEntry => { f with n := f.n + 1#32, i := f.i + 1 }
  | .attempt => { f with a := saturatingSucc f.a }
  | .assembleLength => { f with len := fifoLength f.b1 f.b2 f.b3 }
  | .startBuffer => { f with k := 0 }
  | .storeByte => { f with k := f.k + 1 }
  | _ => f

/-- The state of the buses after an operation. -/
def Op.busAfter (bus : BusState) : Op → BusState
  | .cs a => { bus with cs := a }
  | .csRelease => { bus with cs := false }
  | .setUp b v => bus.setUp b v
  | _ => bus

/-- What going on at position `n` tells about the condition of a test. -/
def Op.Tells (f : Flight) (s : State) (n : Nat) : Op → Prop
  | .raiseIf c _ => c.holds f s = false
  | .skipIf c count => (n = f.pos + 1 ∧ c.holds f s = false) ∨ (n = f.pos + 1 + count ∧ c.holds f s = true)
  | _ => True

/-- How an operation takes the command in flight from `f` to `g`. -/
inductive Op.Leads (p : Prog) (f : Flight) (s : State) (op : Op) (g : Flight) : Prop where
  /-- The engine is stuck or waits. -/
  | stands (hg : g = f) (hs : runOp p f s op = s)
  /-- The operation failed. -/
  | failed (e : Err) (hop : op.canFail = true) (hg : g = { f with pos := p.main.length, outcome := some e })
  /-- The command goes on at `n`. -/
  | goes (n : Nat) (hn : n ∈ op.targets f.pos) (htells : op.Tells f s n) (hg : g = { op.localsAfter f s with pos := n })

section
variable {p : Prog} {f g : Flight} {s : State}

theorem leads_of_settle {op : Op} {s' : State} {err : Option Err} {f' : Flight} (hop : op.canFail = true)
    (hn : op.targets f.pos = [f.pos + 1]) (htells : op.Tells f s (f.pos + 1))
    (hf' : f' = { op.localsAfter f s with pos := f.pos }) (hg : (s'.settle p f err f').ce = some g) :
    op.Leads p f s g := by
  subst hf'
  cases err <;> cases hg
  · exact .goes _ (hn ▸ List.mem_singleton_self _) htells rfl
  · exact .failed _ hop rfl

theorem leads_of_access {op : Op} {s' : State} {f' : Flight} {c : Prop} [Decidable c] (hf : s.ce = some f)
    (hrun : runOp p f s op = if c then s'.advance f' else s) (hn : op.targets f.pos = [f.pos + 1])
    (htells : op.Tells f s (f.pos + 1)) (hf' : f' = { op.localsAfter f s with pos := f.pos })
    (hg : (runOp p f s op).ce = some g) : op.Leads p f s g := by
  subst hf'
  by_cases hc : c
  · rw [hrun, if_pos hc] at hg
    cases hg
    exact .goes _ (hn ▸ List.mem_singleton_self _) htells rfl
  · rw [if_neg hc] at hrun
    rw [hrun, hf] at hg
    cases hg
    exact .stands rfl hrun

/-- Every operation that leaves the command in flight stands still, fails or goes on at one of its targets. -/
theorem runOp_leads {op : Op} (hf : s.ce = some f) (hg : (runOp p f s op).ce = some g) : op.Leads p f s g := by
  cases op with
  | raiseIf c e =>
    rw [runOp_raiseIf] at hg
    split at hg
    · rw [State.raise_ce] at hg
      cases hg
    · rename_i hc
      cases hg
      exact .goes _ (List.mem_singleton_self _) (by simpa [Op.Tells] using hc) rfl
  | failIf c e =>
    rw [runOp_failIf] at hg
    split at hg <;> cases hg
    · exact .failed _ rfl rfl
    · exact .goes _ (List.mem_singleton_self _) trivial rfl
  | skipIf c count =>
    rw [runOp_skipIf] at hg
    split at hg <;> rename_i hc <;> cases hg
    · exact .goes _ (List.mem_cons_of_mem _ (List.mem_singleton_self _)) (.inr ⟨rfl, hc⟩) rfl
    · exact .goes _ List.mem_cons_self (.inl ⟨rfl, by simpa using hc⟩) rfl
  | reraise =>
    cases hout : f.outcome with
    | some e =>
      rw [runOp_reraise, hout, State.raise_ce] at hg
      cases hg
    | none =>
      have hs : runOp p f s .reraise = s := by rw [runOp_reraise, hout]
      rw [hs, hf] at hg
      cases hg
      exact .stands rfl hs
  | awaitEdge =>
    by_cases hpend : s.button.pend = true
    · rw [runOp_awaitEdge, State.takeEdge, if_pos hpend] at hg
      cases hg
    · have hs : runOp p f s .awaitEdge = s := by rw [runOp_awaitEdge, State.takeEdge, if_neg hpend]
      rw [hs, hf] at hg
      cases hg
      exact .stands rfl hs
  | csRelease =>
    rw [runOp_csRelease] at hg
    split at hg <;> cases hg <;> exact .goes _ (List.mem_singleton_self _) trivial rfl
  | complete x => cases hg
  | readEntry | writeBack | storeByte => exact leads_of_access hf rfl rfl trivial rfl hg
  | rbWrite _ _ | rbWriteEntry | busOpen _ | rbRead _ | rbReadEntry =>
    exact leads_of_settle rfl rfl trivial rfl hg
  | xfer tx slot => exact leads_of_settle rfl rfl trivial (by cases slot <;> rfl) hg
  | _ =>
    cases hg
    exact .goes _ (List.mem_singleton_self _) trivial rfl

/-- What an operation does to the buses, whether it ends the command or not. -/
theorem runOp_bus (p : Prog) (f : Flight) (s : State) (op : Op) : (runOp p f s op).bus = op.busAfter s.bus := by
  have hraise : ∀ e, (s.raise p f e).bus = s.bus := fun e => by unfold State.raise; split <;> rfl
  have hsettle : ∀ (s' : State) err f', (s'.settle p f err f').bus = s'.bus := fun s' err f' => by cases err <;> rfl
  cases op with
  | raiseIf c e =>
    rw [runOp_raiseIf]
    split
    · exact hraise e
    · rfl
  | reraise =>
    rw [runOp_reraise]
    split
    · exact hraise _
    · rfl
  | csRelease =>
    rw [runOp_csRelease]
    split
    · rfl
    · rename_i hcs
      simp only [Op.busAfter, State.advance_bus, ← Bool.eq_false_iff.2 hcs]
  | rbWrite _ _ | rbWriteEntry | rbRead _ | rbReadEntry | xfer _ _ | busOpen _ => exact hsettle _ _ _
  | failIf _ _ | skipIf _ _ | readEntry | writeBack | storeByte | awaitEdge =>
    simp only [runOp, State.ceReadCfg, State.ceWriteCfg, State.ceWriteBuf, State.takeEdge]
    split <;> rfl
  | _ => rfl

end

end Sys2Proof.Machine

namespace Sys2Proof.Machine

/-! ## The layout of a pseudocode -/

/-- Where a command can stand after an operation. -/
def Prog.edges (p : Prog) (pos : Nat) (op : Op) : List Nat :=
  op.targets pos ++ if op.canFail then [p.main.length] else []

/-- A property of every operation of the pseudocode and its position. -/
def Prog.onOps (p : Prog) (ok : Nat → Op → Bool) : Bool := p.code.zipIdx.all fun (op, pos) => ok pos op

/-- A property of every edge of the pseudocode. -/
def Prog.onEdges (p : Prog) (ok : Nat → Op → Nat → Bool) : Bool :=
  p.onOps fun pos op => (p.edges pos op).all (ok pos op)

/-- The operations that an edge passes over. -/
def Prog.between (p : Prog) (pos n : Nat) : List Op := (p.code.take n).drop (pos + 1)

/-- The operation is an assignment to RBUP or SBUP. -/
def Op.setsUp : Op → Bool
  | .setUp _ _ => true
  | _ => false

/-- The operation leaves the byte counter. -/
def Op.keepsCount : Op → Bool
  | .startBuffer | .storeByte => false
  | _ => true

/-- The operation leaves the length. -/
def Op.keepsLength : Op → Bool
  | .assembleLength => false
  | _ => true

/-- The operation leaves the list index. -/
def Op.keepsIndex : Op → Bool
  | .startList _ | .nextEntry => false
  | _ => true

/-- The operation drives chip select. -/
def Op.drives : Op → Bool
  | .cs _ | .csRelease => true
  | _ => false

/-- The operation releases chip select, or passes over the release where the serial bus is down. -/
def Op.showsReleased : Op → Bool
  | .csRelease | .skipIf (.not (.busUp .sb)) _ => true
  | _ => false

/-- The operation tests whether a byte of the burst is left. -/
def Op.testsByte : Op → Bool
  | .skipIf (.not .moreBytes) (_ + 1) => true
  | _ => false

/-- The operation tests whether the list index lies in CFGMEM. -/
def Op.testsEntry : Op → Bool
  | .raiseIf .listEnd _ => true
  | _ => false

/-- The operation writes a byte of BUF or gives BUFLEN the length. -/
def Op.fillsBuffer : Op → Bool
  | .storeByte | .setBufLen => true
  | _ => false

/-- The operation is `STATUS.SBUP <- 0`. -/
def Op.closesSb : Op → Bool
  | .setUp .sb false => true
  | _ => false

/-- The release of chip select stands before a position. -/
def Prog.releasedAt (p : Prog) (pos : Nat) : Bool := (p.code.take pos).contains .csRelease

/-- The level of chip select after an operation, where the passed operations tell it. -/
def Prog.levelAfter (p : Prog) (pos : Nat) : Op → Option Bool
  | .cs a => some a
  | .csRelease => some false
  | .raiseIf .csAsserted _ => some false
  | _ =>
    if pos < p.main.length then if p.csChecked pos then some (p.selectedAt pos) else none
    else if p.releasedAt pos then some false else none

/-- An edge passes over no check of a bus or of the capacity, and no check of a bus stands before an assignment to RBUP
or SBUP. -/
def Prog.edgeChecked (p : Prog) (pos : Nat) (op : Op) (n : Nat) : Bool :=
  !((p.between pos n).any fun o => o.checksBus.isSome || o.checksCapacity.isSome) &&
    (!op.setsUp || !(p.code.take n).any fun o => o.checksBus.isSome)

/-- An edge inside the main operations passes over no check of the length; none stands before the target of an edge from
the handler or from the assembly of the length. -/
def Prog.edgeLength (p : Prog) (pos : Nat) (op : Op) (n : Nat) : Bool :=
  decide (p.main.length ≤ n) || !((p.code.take n).any fun o => o.checksLength.isSome) ||
    (decide (pos < p.main.length) && op.keepsLength && !(p.between pos n).any fun o => o.checksLength.isSome)

/-- Behind a release of chip select it stays released. -/
def Prog.edgeReleased (p : Prog) (pos : Nat) (op : Op) (n : Nat) : Bool :=
  !p.releasedAt n || op.showsReleased || (!op.drives && !(p.between pos n).contains .csRelease)

/-- Behind its check chip select is asserted exactly inside the frames. -/
def Prog.edgeFramed (p : Prog) (pos : Nat) (op : Op) (n : Nat) : Bool :=
  decide (p.main.length ≤ n) || !p.csChecked n || p.levelAfter pos op == some (p.selectedAt n)

/-- A byte of a burst is received and stored only behind the test of its number. -/
def Prog.edgeByte (p : Prog) (pos : Nat) (op : Op) (n : Nat) : Bool :=
  !p.inByte n || (p.inByte pos && op.keepsCount && op.keepsLength) || (op.testsByte && n == pos + 1)

/-- An entry is worked on only behind the test of its index. -/
def Prog.edgeEntry (p : Prog) (pos : Nat) (op : Op) (n : Nat) : Bool :=
  !p.inEntry n || (p.inEntry pos && op.keepsIndex) || op.testsEntry

/-- An edge stays inside the pseudocode. -/
def Prog.edgeInside (p : Prog) (_ : Nat) (_ : Op) (n : Nat) : Bool := decide (n < p.code.length)

/-- Behind the check of chip select every edge stays behind it. -/
def Prog.edgeKeepsCheck (p : Prog) (pos : Nat) (_ : Op) (n : Nat) : Bool := !p.csChecked pos || p.csChecked n

/-- The handler is entered by a failed operation only. -/
def Prog.opMainClosed (p : Prog) (pos : Nat) (op : Op) : Bool :=
  decide (p.main.length ≤ pos) || (op.targets pos).all fun n => decide (n < p.main.length)

/-- BUF is written, and BUFLEN given a length, behind the checks of the capacity and of the length; chip select is
driven behind the check of the serial bus, which is taken down behind the release. -/
def Prog.opGuarded (p : Prog) (pos : Nat) (op : Op) : Bool :=
  (!op.fillsBuffer || (decide (pos < p.main.length) && ((p.code.take pos).any fun o => o.checksLength.isSome) &&
    (p.code.take pos).any fun o => o.checksCapacity.isSome)) &&
  (!op.drivesCs.isSome || (p.code.take pos).any fun o => o.checksBus == some .sb) &&
  (!op.closesSb || p.releasedAt pos)

/-- The layout under which each operation of a pseudocode keeps what the passed ones tell. -/
def Prog.laid (p : Prog) : Bool :=
  p.onEdges p.edgeInside && p.onEdges p.edgeChecked && p.onEdges p.edgeLength && p.onEdges p.edgeReleased &&
    p.onEdges p.edgeFramed && p.onEdges p.edgeByte && p.onEdges p.edgeEntry && p.onEdges p.edgeKeepsCheck &&
    p.onOps p.opMainClosed && p.onOps p.opGuarded

/-- The operation can end the command. -/
def Op.canEnd : Op → Bool
  | .raiseIf _ _ | .reraise | .complete _ | .awaitEdge => true
  | _ => false

/-- An FCC command drives chip select behind its check only, passes over no release of it, and ends outside the frames
or behind the release. -/
def Prog.opReleases (p : Prog) (pos : Nat) (op : Op) : Bool :=
  (!op.drives || p.csChecked pos) && (op.drives || !op.showsReleased) && (!op.canEnd || !p.csChecked pos ||
    if pos < p.main.length then !p.selectedAt pos else p.releasedAt pos)

/-! ## The shape of a pseudocode

The layout does not depend on the data in the operations, so it is evaluated once for each shape. -/

/-- The condition with its data forgotten. -/
def Cond.shape : Cond → Cond
  | .addressFits _ => .addressFits 0
  | .capacityFits _ => .capacityFits 0
  | .bitSet _ => .bitSet 0
  | .received _ => .received 0
  | .attemptsSpent _ => .attemptsSpent 0
  | .lengthOver _ => .lengthOver 0
  | .not c => .not c.shape
  | c => c

/-- The operation with its data forgotten. -/
def Op.shape : Op → Op
  | .raiseIf c e => .raiseIf c.shape e
  | .failIf c e => .failIf c.shape e
  | .skipIf c count => .skipIf c.shape count
  | .complete _ => .complete .zero
  | .rbWrite _ _ => .rbWrite 0 0
  | .rbRead _ => .rbRead 0
  | .xfer _ slot => .xfer (.byte 0) slot
  | .startList _ => .startList 0
  | op => op

/-- The pseudocode with its data forgotten. -/
def Prog.shape (p : Prog) : Prog where
  main := p.main.map Op.shape
  handler := p.handler.map Op.shape
  errResult := p.errResult

section
variable (o : Op)

@[simp] theorem Op.shape_checksBus : o.shape.checksBus = o.checksBus := by
  cases o with
  | raiseIf c e =>
    cases c with
    | not c => cases c <;> rfl
    | _ => rfl
  | _ => rfl

@[simp] theorem Op.shape_checksCapacity : o.shape.checksCapacity.isSome = o.checksCapacity.isSome := by
  cases o with
  | raiseIf c e =>
    cases c with
    | not c => cases c <;> rfl
    | _ => rfl
  | _ => rfl

@[simp] theorem Op.shape_checksLength : o.shape.checksLength.isSome = o.checksLength.isSome := by
  cases o with
  | raiseIf c e => cases c <;> rfl
  | _ => rfl

@[simp] theorem Op.shape_drivesCs : o.shape.drivesCs = o.drivesCs := by cases o <;> rfl

@[simp] theorem Op.shape_targets (pos : Nat) : o.shape.targets pos = o.targets pos := by cases o <;> rfl

@[simp] theorem Op.shape_canFail : o.shape.canFail = o.canFail := by cases o <;> rfl

@[simp] theorem Op.shape_setsUp : o.shape.setsUp = o.setsUp := by cases o <;> rfl

@[simp] theorem Op.shape_keepsCount : o.shape.keepsCount = o.keepsCount := by cases o <;> rfl

@[simp] theorem Op.shape_keepsLength : o.shape.keepsLength = o.keepsLength := by cases o <;> rfl

@[simp] theorem Op.shape_keepsIndex : o.shape.keepsIndex = o.keepsIndex := by cases o <;> rfl

@[simp] theorem Op.shape_showsReleased : o.shape.showsReleased = o.showsReleased := by
  cases o with
  | skipIf c count =>
    cases c with
    | not c => cases c <;> rfl
    | _ => rfl
  | _ => rfl

@[simp] theorem Op.shape_testsByte : o.shape.testsByte = o.testsByte := by
  cases o with
  | skipIf c count =>
    cases c with
    | not c => cases c <;> rfl
    | _ => rfl
  | _ => rfl

@[simp] theorem Op.shape_testsEntry : o.shape.testsEntry = o.testsEntry := by
  cases o with
  | raiseIf c e => cases c <;> rfl
  | _ => rfl

@[simp] theorem Op.shape_fillsBuffer : o.shape.fillsBuffer = o.fillsBuffer := by cases o <;> rfl

@[simp] theorem Op.shape_closesSb : o.shape.closesSb = o.closesSb := by cases o <;> rfl

@[simp] theorem Op.shape_canEnd : o.shape.canEnd = o.canEnd := by cases o <;> rfl

@[simp] theorem Op.shape_drives : o.shape.drives = o.drives := by cases o <;> rfl

/-- The operations that the checks look for. -/
def Op.marks : List Op :=
  [.raiseIf .csAsserted .illegalState, .raiseIf .listEnd .listOverrun, .nextEntry, .csRelease, .storeByte]

/-- An operation that the checks look for has no data. -/
theorem Op.shape_eq_iff {x : Op} (hx : x ∈ Op.marks) : o.shape = x ↔ o = x := by
  simp only [Op.marks, List.mem_cons, List.not_mem_nil, or_false] at hx
  rcases hx with rfl | rfl | rfl | rfl | rfl <;> cases o <;> simp [Op.shape]
  case inl.raiseIf c e | inr.inl.raiseIf c e => cases c <;> simp [Cond.shape]

theorem contains_map_shape {l : List Op} {x : Op} (hx : x ∈ Op.marks) :
    (l.map Op.shape).contains x = l.contains x := by
  rw [Bool.eq_iff_iff]
  simp [Op.shape_eq_iff _ hx]

end

section
variable (p : Prog)

@[simp] theorem Prog.shape_code : p.shape.code = p.code.map Op.shape := List.map_append.symm

@[simp] theorem Prog.shape_main : p.shape.main = p.main.map Op.shape := rfl

@[simp] theorem Prog.shape_between (pos n : Nat) : p.shape.between pos n = (p.between pos n).map Op.shape := by
  simp [Prog.between, List.map_take, List.map_drop]

@[simp] theorem Prog.shape_csChecked (pos : Nat) : p.shape.csChecked pos = p.csChecked pos := by
  rw [Prog.csChecked, Prog.shape_code, ← List.map_take, contains_map_shape (by simp [Op.marks]), Prog.csChecked]

@[simp] theorem Prog.shape_releasedAt (pos : Nat) : p.shape.releasedAt pos = p.releasedAt pos := by
  rw [Prog.releasedAt, Prog.shape_code, ← List.map_take, contains_map_shape (by simp [Op.marks]), Prog.releasedAt]

@[simp] theorem Prog.shape_selectedAt (pos : Nat) : p.shape.selectedAt pos = p.selectedAt pos := by
  simp only [Prog.selectedAt, Prog.shape_main, ← List.map_take, List.filterMap_map, Function.comp_def,
    Op.shape_drivesCs]

@[simp] theorem Prog.shape_inEntry (pos : Nat) : p.shape.inEntry pos = p.inEntry pos := by
  rw [Prog.inEntry, Prog.shape_main, ← List.map_take, ← List.map_drop, contains_map_shape (by simp [Op.marks]),
    contains_map_shape (by simp [Op.marks]), Prog.inEntry]

@[simp] theorem Prog.shape_inByte (pos : Nat) : p.shape.inByte pos = p.inByte pos := by
  have hat : ∀ n : Nat, ((p.code.map Op.shape)[n]? == some Op.storeByte) = (p.code[n]? == some Op.storeByte) := fun n =>
    by
    rw [Bool.eq_iff_iff]
    simp [List.getElem?_map, Op.shape_eq_iff _ (show Op.storeByte ∈ Op.marks by simp [Op.marks])]
  simp only [Prog.inByte, Prog.shape_code, hat]

@[simp] theorem Prog.shape_levelAfter (pos : Nat) (op : Op) :
    p.shape.levelAfter pos op.shape = p.levelAfter pos op := by
  cases op with
  | raiseIf c e => cases c <;> simp [Prog.levelAfter, Op.shape, Cond.shape]
  | _ => simp [Prog.levelAfter, Op.shape]

theorem Prog.shape_onOps {ok ok' : Nat → Op → Bool} (h : ∀ pos op, ok' pos op.shape = ok pos op) :
    p.shape.onOps ok' = p.onOps ok := by
  simp [Prog.onOps, List.zipIdx_map, Function.comp_def, h]

theorem Prog.shape_onEdges {ok ok' : Nat → Op → Nat → Bool} (h : ∀ pos op n, ok' pos op.shape n = ok pos op n) :
    p.shape.onEdges ok' = p.onEdges ok :=
  p.shape_onOps fun pos op => by
    rw [show ok' pos op.shape = ok pos op from funext (h pos op)]
    simp [Prog.edges]

theorem Prog.shape_laid : p.shape.laid = p.laid := by
  have hinside : p.shape.onEdges p.shape.edgeInside = p.onEdges p.edgeInside :=
    p.shape_onEdges fun pos op n => by simp [Prog.edgeInside]
  have hchecked : p.shape.onEdges p.shape.edgeChecked = p.onEdges p.edgeChecked :=
    p.shape_onEdges fun pos op n => by simp [Prog.edgeChecked, ← List.map_take, Function.comp_def]
  have hlength : p.shape.onEdges p.shape.edgeLength = p.onEdges p.edgeLength :=
    p.shape_onEdges fun pos op n => by simp [Prog.edgeLength, ← List.map_take, Function.comp_def]
  have hreleased : p.shape.onEdges p.shape.edgeReleased = p.onEdges p.edgeReleased :=
    p.shape_onEdges fun pos op n => by
      simp only [Prog.edgeReleased, Prog.shape_releasedAt, Op.shape_showsReleased, Op.shape_drives, Prog.shape_between,
        contains_map_shape (show Op.csRelease ∈ Op.marks by simp [Op.marks])]
  have hframed : p.shape.onEdges p.shape.edgeFramed = p.onEdges p.edgeFramed :=
    p.shape_onEdges fun pos op n => by simp [Prog.edgeFramed]
  have hbyte : p.shape.onEdges p.shape.edgeByte = p.onEdges p.edgeByte :=
    p.shape_onEdges fun pos op n => by simp [Prog.edgeByte]
  have hentry : p.shape.onEdges p.shape.edgeEntry = p.onEdges p.edgeEntry :=
    p.shape_onEdges fun pos op n => by simp [Prog.edgeEntry]
  have hcheck : p.shape.onEdges p.shape.edgeKeepsCheck = p.onEdges p.edgeKeepsCheck :=
    p.shape_onEdges fun pos op n => by simp [Prog.edgeKeepsCheck]
  have hclosed : p.shape.onOps p.shape.opMainClosed = p.onOps p.opMainClosed :=
    p.shape_onOps fun pos op => by simp [Prog.opMainClosed]
  have hguarded : p.shape.onOps p.shape.opGuarded = p.onOps p.opGuarded :=
    p.shape_onOps fun pos op => by simp [Prog.opGuarded, ← List.map_take, Function.comp_def]
  simp only [Prog.laid, hinside, hchecked, hlength, hreleased, hframed, hbyte, hentry, hcheck, hclosed,
    hguarded]

theorem Prog.shape_opReleases : p.shape.onOps p.shape.opReleases = p.onOps p.opReleases :=
  p.shape_onOps fun pos op => by simp [Prog.opReleases]

end

/-- The command with its operands forgotten, but for those that its pseudocode's shape depends on. -/
def shapeOf : Instr → Instr
  | .rbWrite _ _ => .rbWrite 0 0
  | .rbRead _ => .rbRead 0
  | .sbXferByte _ => .sbXferByte 0
  | .sbXferWord _ => .sbXferWord 0
  | .cfgApply _ => .cfgApply 0
  | .cfgRead _ => .cfgRead 0
  | .fccSelfTest _ => .fccSelfTest 0
  | .fccBurstRead _ => .fccBurstRead 0
  | .fccSingleCapture _ => .fccSingleCapture 0
  | .fccWriteReg _ _ => .fccWriteReg 0 0
  | .fccReadReg _ => .fccReadReg 0
  | .fccSetBit _ _ => .fccSetBit 0 0
  | .fccClrBit _ _ => .fccClrBit 0 0
  | .fccGetBit _ _ => .fccGetBit 0 0
  | i => i

/-- The commands without operands that `shapeOf` forgets. -/
def shapesOf : List Instr :=
  [.nop, .busOpen 0, .busOpen 1, .busOpen 2, .busOpen 3, .busClose 0, .busClose 1, .busClose 2, .busClose 3,
   .rbWrite 0 0, .rbRead 0, .sbXferByte 0, .sbXferWord 0, .sbCs 0, .sbCs 1, .cfgApply 0, .cfgRead 0, .fccSelfTest 0,
   .fccFlush, .fccTrigger, .fccPollDone, .fccReadLen, .fccBurstRead 0, .fccSingleCapture 0, .fccWriteReg 0 0,
   .fccReadReg 0, .fccSetBit 0 0, .fccClrBit 0 0, .fccGetBit 0 0, .btnArmWait]

theorem shapeOf_mem (i : Instr) : shapeOf i ∈ shapesOf := by
  cases i with
  | busOpen m | busClose m | sbCs m =>
    revert m
    decide
  | _ => simp [shapeOf, shapesOf]

theorem isFcc_shapeOf (i : Instr) : isFcc (shapeOf i) = isFcc i := by cases i <;> rfl

theorem progOf_shape (q : Params) (i : Instr) : (progOf q i).shape = (progOf default (shapeOf i)).shape := by
  cases i <;> rfl

/-- Every command's pseudocode is laid out so that its operations keep what the passed ones tell. -/
theorem progOf_laid (q : Params) (i : Instr) : (progOf q i).laid = true := by
  have hall : ∀ j ∈ shapesOf, (progOf default j).shape.laid = true := by decide +kernel
  rw [← Prog.shape_laid, progOf_shape]
  exact hall _ (shapeOf_mem i)

/-- Every FCC command is laid out so that it ends with chip select released (R211). -/
theorem progOf_releases (q : Params) {i : Instr} (hi : isFcc i = true) :
    (progOf q i).onOps (progOf q i).opReleases = true := by
  have hall : ∀ j ∈ shapesOf, isFcc j = true →
      (progOf default j).shape.onOps (progOf default j).shape.opReleases = true := by decide +kernel
  rw [← Prog.shape_opReleases, progOf_shape]
  exact hall _ (shapeOf_mem i) (isFcc_shapeOf i ▸ hi)

end Sys2Proof.Machine

namespace Sys2Proof.Machine

/-! ## The step of `Flight.Sound` -/

/-- What an operation that moves the command from `f` to `g` does to the position and the locals, failed or not. -/
structure Op.Moves (p : Prog) (f : Flight) (s : State) (op : Op) (g : Flight) : Prop where
  edge : g.pos ∈ p.edges f.pos op
  tells : op.Tells f s g.pos
  count : op.keepsCount = true → g.k = f.k
  length : op.keepsLength = true → g.len = f.len
  index : op.keepsIndex = true → g.i = f.i
  outcome : (g.pos ∈ op.targets f.pos ∧ g.outcome = f.outcome) ∨ g.outcome ≠ none

section
variable {p : Prog} {f g : Flight} {s : State} {op : Op} {pos n : Nat}

theorem Op.tells_of_canFail (h : op.canFail = true) : op.Tells f s n := by
  cases op with
  | raiseIf | skipIf => cases h
  | _ => trivial

theorem Op.localsAfter_count (h : op.keepsCount = true) : (op.localsAfter f s).k = f.k := by
  cases op with
  | startBuffer | storeByte => cases h
  | xfer tx slot => cases slot <;> rfl
  | _ => rfl

theorem Op.localsAfter_length (h : op.keepsLength = true) : (op.localsAfter f s).len = f.len := by
  cases op with
  | assembleLength => cases h
  | xfer tx slot => cases slot <;> rfl
  | _ => rfl

theorem Op.localsAfter_index (h : op.keepsIndex = true) : (op.localsAfter f s).i = f.i := by
  cases op with
  | startList | nextEntry => cases h
  | xfer tx slot => cases slot <;> rfl
  | _ => rfl

theorem Op.localsAfter_outcome : (op.localsAfter f s).outcome = f.outcome := by
  cases op with
  | xfer tx slot => cases slot <;> rfl
  | _ => rfl

/-- An operation that leaves the command in flight stands still or moves it. -/
theorem Op.Leads.stands_or_moves (h : op.Leads p f s g) : (g = f ∧ runOp p f s op = s) ∨ op.Moves p f s g := by
  cases h with
  | stands hg hs => exact .inl ⟨hg, hs⟩
  | failed e hop hg =>
    subst hg
    exact .inr ⟨by simp [Prog.edges, hop], Op.tells_of_canFail hop, fun _ => rfl, fun _ => rfl, fun _ => rfl,
      .inr (Option.some_ne_none e)⟩
  | goes n hn htells hg =>
    subst hg
    exact .inr ⟨List.mem_append_left _ hn, htells, Op.localsAfter_count, Op.localsAfter_length,
      Op.localsAfter_index, .inl ⟨hn, Op.localsAfter_outcome⟩⟩

theorem Prog.onOps_at {ok : Nat → Op → Bool} (h : p.onOps ok = true) (hop : p.code[pos]? = some op) :
    ok pos op = true :=
  List.all_eq_true.1 h (op, pos) (List.mem_zipIdx_iff_getElem?.2 hop)

theorem Prog.onEdges_at {ok : Nat → Op → Nat → Bool} (h : p.onEdges ok = true) (hop : p.code[pos]? = some op)
    (hn : n ∈ p.edges pos op) : ok pos op n = true :=
  List.all_eq_true.1 (Prog.onOps_at h hop) n hn

/-- The checks on an edge of a laid pseudocode. -/
theorem Prog.laid_edge (h : p.laid = true) (hop : p.code[pos]? = some op) (hn : n ∈ p.edges pos op) :
    p.edgeInside pos op n = true ∧ p.edgeChecked pos op n = true ∧ p.edgeLength pos op n = true ∧
    p.edgeReleased pos op n = true ∧ p.edgeFramed pos op n = true ∧ p.edgeByte pos op n = true ∧
    p.edgeEntry pos op n = true ∧ p.edgeKeepsCheck pos op n = true := by
  simp only [Prog.laid, Bool.and_eq_true] at h
  obtain ⟨⟨⟨⟨⟨⟨⟨⟨⟨h1, h2⟩, h3⟩, h4⟩, h5⟩, h6⟩, h7⟩, h8⟩, _⟩, _⟩ := h
  exact ⟨Prog.onEdges_at h1 hop hn, Prog.onEdges_at h2 hop hn, Prog.onEdges_at h3 hop hn, Prog.onEdges_at h4 hop hn,
    Prog.onEdges_at h5 hop hn, Prog.onEdges_at h6 hop hn, Prog.onEdges_at h7 hop hn, Prog.onEdges_at h8 hop hn⟩

/-- The checks on an operation of a laid pseudocode. -/
theorem Prog.laid_op (h : p.laid = true) (hop : p.code[pos]? = some op) :
    p.opMainClosed pos op = true ∧ p.opGuarded pos op = true := by
  simp only [Prog.laid, Bool.and_eq_true] at h
  obtain ⟨⟨_, hclosed⟩, hguarded⟩ := h
  exact ⟨Prog.onOps_at hclosed hop, Prog.onOps_at hguarded hop⟩

/-- What stands in front of the next position stands in front of this one, is the operation itself, or is passed
over. -/
theorem Prog.mem_take_of_edge (hop : p.code[pos]? = some op) {o : Op} (ho : o ∈ p.code.take n) :
    o ∈ p.code.take pos ∨ o = op ∨ o ∈ p.between pos n := by
  obtain ⟨j, hj, hget⟩ := List.mem_take_iff_getElem.1 ho
  rcases Nat.lt_trichotomy j pos with hlt | rfl | hgt
  · exact .inl (List.mem_take_iff_getElem.2 ⟨j, by omega, hget⟩)
  · exact .inr (.inl (by
      rw [List.getElem?_eq_getElem (by omega), hget] at hop
      exact Option.some.inj hop))
  · refine .inr (.inr (List.mem_iff_getElem?.2 ⟨j - (pos + 1), ?_⟩))
    rw [Prog.between, List.getElem?_drop, List.getElem?_take, if_pos (by omega),
      show pos + 1 + (j - (pos + 1)) = j by omega,
      List.getElem?_eq_getElem (by omega), hget]

/-- The way from what the checks in front of a position told to what those in front of the next one tell. -/
theorem Prog.checks_of_edge {α : Type} {check : Op → Option α} {P P' : α → Prop} (hop : p.code[pos]? = some op)
    (hpassed : ∀ o ∈ p.code.take pos, ∀ a ∈ check o, P a) (hkeep : ∀ a, P a → P' a) (hnew : ∀ a ∈ check op, P' a)
    (hover : ∀ o ∈ p.between pos n, check o = none) : ∀ o ∈ p.code.take n, ∀ a ∈ check o, P' a := by
  intro o ho a ha
  rcases Prog.mem_take_of_edge hop ho with hbefore | rfl | hbetween
  · exact hkeep a (hpassed o hbefore a ha)
  · exact hnew a ha
  · rw [hover o hbetween] at ha
    cases ha

/-- The edge to the next operation passes over nothing. -/
theorem Prog.between_succ : p.between pos (pos + 1) = [] := by simp [Prog.between]

theorem Op.eq_of_showsReleased (h : op.showsReleased = true) :
    op = .csRelease ∨ ∃ count, op = .skipIf (.not (.busUp .sb)) count := by
  unfold Op.showsReleased at h
  split at h
  · exact .inl rfl
  · exact .inr ⟨_, rfl⟩
  · cases h

theorem Op.eq_of_testsByte (h : op.testsByte = true) : ∃ count, op = .skipIf (.not .moreBytes) (count + 1) := by
  unfold Op.testsByte at h
  split at h
  · exact ⟨_, rfl⟩
  · cases h

theorem Op.eq_of_testsEntry (h : op.testsEntry = true) : ∃ e, op = .raiseIf .listEnd e := by
  unfold Op.testsEntry at h
  split at h
  · exact ⟨_, rfl⟩
  · cases h

theorem Op.eq_raiseIf_of_checksBus {b : Bus} (h : op.checksBus = some b) : ∃ e, op = .raiseIf (.not (.busUp b)) e := by
  unfold Op.checksBus at h
  split at h
  · cases h
    exact ⟨_, rfl⟩
  · cases h

theorem Op.eq_raiseIf_of_checksCapacity {cap : BitVec 24} (h : op.checksCapacity = some cap) :
    ∃ e, op = .raiseIf (.not (.capacityFits cap)) e := by
  unfold Op.checksCapacity at h
  split at h
  · cases h
    exact ⟨_, rfl⟩
  · cases h

theorem Op.eq_raiseIf_of_checksLength {cap : BitVec 24} (h : op.checksLength = some cap) :
    ∃ e, op = .raiseIf (.lengthOver cap) e := by
  unfold Op.checksLength at h
  split at h
  · cases h
    exact ⟨_, rfl⟩
  · cases h

theorem Op.busAfter_up (h : op.setsUp = false) (bus : BusState) (b : Bus) : (op.busAfter bus).up b = bus.up b := by
  cases op with
  | setUp => cases h
  | cs | csRelease => cases b <;> rfl
  | _ => rfl

theorem Op.busAfter_cs (h : op.drives = false) (bus : BusState) : (op.busAfter bus).cs = bus.cs := by
  cases op with
  | cs | csRelease => cases h
  | setUp b v => exact BusState.setUp_cs _ _ _
  | _ => rfl

end

section
variable {p : Prog} {f : Flight} {s : State} {op : Op} {n : Nat} {a : Bool}

/-- The level of chip select that the position tells where the operation does not drive it. -/
theorem Flight.Sound.cs_of_levelHeld (h : f.Sound p s)
    (ha : (if f.pos < p.main.length then if p.csChecked f.pos then some (p.selectedAt f.pos) else none
      else if p.releasedAt f.pos then some false else none) = some a) : s.bus.cs = a := by
  split at ha
  · rename_i hmain
    split at ha <;> cases ha
    rename_i hcheck
    exact h.csFramed hmain hcheck
  · split at ha <;> cases ha
    rename_i hrel
    exact h.released (List.contains_iff_mem.1 hrel)

theorem Flight.Sound.cs_of_levelAfter (h : f.Sound p s) (htells : op.Tells f s n)
    (ha : p.levelAfter f.pos op = some a) :
    (op.busAfter s.bus).cs = a := by
  cases op with
  | cs | csRelease => exact Option.some.inj ha
  | setUp b v => exact (BusState.setUp_cs _ _ _).trans (h.cs_of_levelHeld ha)
  | raiseIf c e =>
    cases c with
    | csAsserted => exact htells.trans (Option.some.inj ha)
    | _ => exact h.cs_of_levelHeld ha
  | _ => exact h.cs_of_levelHeld ha

end

section
variable {p : Prog} {f g : Flight} {s : State} {op : Op}
  (hlaid : p.laid = true) (h : f.Sound p s) (hop : p.code[f.pos]? = some op) (hm : op.Moves p f s g)
include hlaid h hop hm

/-- A bus whose check is passed stays up. -/
theorem Op.Moves.busChecked : ∀ o ∈ p.code.take g.pos, ∀ b ∈ o.checksBus, (op.busAfter s.bus).up b = true := by
  obtain ⟨_, hchecked, _⟩ := Prog.laid_edge hlaid hop hm.edge
  simp only [Prog.edgeChecked, Bool.and_eq_true, Bool.or_eq_true, Bool.not_eq_true', List.any_eq_false] at hchecked
  obtain ⟨hover, hsets⟩ := hchecked
  cases hset : op.setsUp with
  | true =>
    intro o ho b hb
    have hnone := hsets.resolve_left (by simp [hset]) o ho
    rw [Option.mem_def.1 hb] at hnone
    exact absurd rfl hnone
  | false =>
    simp only [Op.busAfter_up hset]
    refine Prog.checks_of_edge hop h.busChecked (fun _ hb => hb) (fun b hb => ?_) fun o ho => ?_
    · obtain ⟨e, rfl⟩ := Op.eq_raiseIf_of_checksBus hb
      simpa [Op.Tells] using hm.tells
    · have := hover o ho
      simp_all

/-- A capacity whose check is passed fits. -/
theorem Op.Moves.capacityChecked : ∀ o ∈ p.code.take g.pos, ∀ cap ∈ o.checksCapacity,
    capacityFits s.params.bufBytes cap = true := by
  obtain ⟨_, hchecked, _⟩ := Prog.laid_edge hlaid hop hm.edge
  simp only [Prog.edgeChecked, Bool.and_eq_true, Bool.not_eq_true', List.any_eq_false] at hchecked
  obtain ⟨hover, _⟩ := hchecked
  refine Prog.checks_of_edge hop h.capacityChecked (fun _ hc => hc) (fun cap hcap => ?_) fun o ho => ?_
  · obtain ⟨e, rfl⟩ := Op.eq_raiseIf_of_checksCapacity hcap
    simpa [Op.Tells] using hm.tells
  · have := hover o ho
    simp_all

/-- A length whose check is passed is at most the capacity. -/
theorem Op.Moves.lengthChecked (hmain : g.pos < p.main.length) : ∀ o ∈ p.code.take g.pos, ∀ cap ∈ o.checksLength,
    g.len.toNat ≤ cap.toNat := by
  obtain ⟨_, _, hlength, _⟩ := Prog.laid_edge hlaid hop hm.edge
  simp only [Prog.edgeLength, Bool.and_eq_true, Bool.or_eq_true, Bool.not_eq_true', List.any_eq_false,
    decide_eq_true_eq] at hlength
  rcases hlength with (hout | hnone) | ⟨⟨hpos, hkeeps⟩, hover⟩
  · omega
  · intro o ho cap hcap
    have := hnone o ho
    simp_all
  · rw [hm.length hkeeps]
    refine Prog.checks_of_edge hop (h.lengthChecked hpos) (fun _ hc => hc) (fun cap hcap => ?_) fun o ho => ?_
    · obtain ⟨e, rfl⟩ := Op.eq_raiseIf_of_checksLength hcap
      simpa [Op.Tells] using hm.tells
    · have := hover o ho
      simp_all

/-- Behind its release chip select stays released; where the release is passed over the serial bus is down. -/
theorem Op.Moves.released
    (hclose : ∀ count, op = .skipIf (.not (.busUp .sb)) count → s.bus.cs = true → s.bus.sbUp = true)
    (hrel : .csRelease ∈ p.code.take g.pos) : (op.busAfter s.bus).cs = false := by
  obtain ⟨_, _, _, hreleased, _⟩ := Prog.laid_edge hlaid hop hm.edge
  have hat : p.releasedAt g.pos = true := List.contains_iff_mem.2 hrel
  simp only [Prog.edgeReleased, hat, Bool.not_true, Bool.false_or, Bool.or_eq_true, Bool.and_eq_true,
    Bool.not_eq_true'] at hreleased
  rcases hreleased with hshows | ⟨hdrives, hover⟩
  · rcases Op.eq_of_showsReleased hshows with rfl | ⟨count, rfl⟩
    · rfl
    · rcases hm.tells with ⟨hn, _⟩ | ⟨_, hdown⟩
      · rw [hn] at hrel
        rcases Prog.mem_take_of_edge hop hrel with hbefore | heq | hbetween
        · exact h.released hbefore
        · cases heq
        · rw [Prog.between_succ] at hbetween
          cases hbetween
      · by_contra hcs
        have hup := hclose count rfl (by simpa [Op.busAfter] using hcs)
        simp [BusState.up, hup] at hdown
  · rw [Op.busAfter_cs hdrives]
    rcases Prog.mem_take_of_edge hop hrel with hbefore | rfl | hbetween
    · exact h.released hbefore
    · cases hdrives
    · rw [List.contains_iff_mem.2 hbetween] at hover
      cases hover

/-- Behind its check chip select is asserted exactly inside the frames. -/
theorem Op.Moves.csFramed (hmain : g.pos < p.main.length) (hcheck : p.csChecked g.pos = true) :
    (op.busAfter s.bus).cs = p.selectedAt g.pos := by
  obtain ⟨_, _, _, _, hframed, _⟩ := Prog.laid_edge hlaid hop hm.edge
  simp only [Prog.edgeFramed, hcheck, Bool.not_true, Bool.or_false, Bool.or_eq_true, decide_eq_true_eq,
    beq_iff_eq] at hframed
  exact h.cs_of_levelAfter hm.tells (hframed.resolve_left (Nat.not_le.2 hmain))

/-- The number of a byte that is received and stored is below the length. -/
theorem Op.Moves.byteCounted (hbyte : p.inByte g.pos = true) : g.k < g.len.toNat := by
  obtain ⟨_, _, _, _, _, hedge, _⟩ := Prog.laid_edge hlaid hop hm.edge
  simp only [Prog.edgeByte, hbyte, Bool.not_true, Bool.false_or, Bool.or_eq_true, Bool.and_eq_true,
    beq_iff_eq] at hedge
  rcases hedge with ⟨⟨hin, hcount⟩, hlength⟩ | ⟨htest, hn⟩
  · rw [hm.count hcount, hm.length hlength]
    exact h.byteCounted hin
  · obtain ⟨count, rfl⟩ := Op.eq_of_testsByte htest
    rw [hm.count rfl, hm.length rfl]
    rcases hm.tells with ⟨_, hmore⟩ | ⟨hskip, _⟩
    · simpa using hmore
    · omega

/-- The index of an entry that is worked on lies in CFGMEM. -/
theorem Op.Moves.entryInside (hentry : p.inEntry g.pos = true) : g.i < s.params.cfgWords := by
  obtain ⟨_, _, _, _, _, _, hedge, _⟩ := Prog.laid_edge hlaid hop hm.edge
  simp only [Prog.edgeEntry, hentry, Bool.not_true, Bool.false_or, Bool.or_eq_true, Bool.and_eq_true] at hedge
  rcases hedge with ⟨hin, hindex⟩ | htest
  · rw [hm.index hindex]
    exact h.entryInside hin
  · obtain ⟨e, rfl⟩ := Op.eq_of_testsEntry htest
    rw [hm.index rfl]
    simpa [Op.Tells] using hm.tells

theorem Op.Moves.errorHeld (hmain : p.main.length ≤ g.pos) : g.outcome ≠ none := by
  obtain ⟨hclosed, _⟩ := Prog.laid_op hlaid hop
  simp only [Prog.opMainClosed, Bool.or_eq_true, decide_eq_true_eq, List.all_eq_true] at hclosed
  rcases hm.outcome with ⟨htarget, hkept⟩ | herr
  · rw [hkept]
    refine h.errorHeld (hclosed.resolve_right fun hin => ?_)
    have := hin _ htarget
    omega
  · exact herr

end

/-- Every operation of a laid pseudocode keeps what the passed ones tell; BUS_CLOSE passes over the release of chip
select where the serial bus is down. -/
theorem runOp_keeps_sound {p : Prog} {f g : Flight} {s : State} {op : Op} (hlaid : p.laid = true) (hf : s.ce = some f)
    (h : f.Sound p s) (hop : p.code[f.pos]? = some op)
    (hclose : ∀ count, op = .skipIf (.not (.busUp .sb)) count → s.bus.cs = true → s.bus.sbUp = true)
    (hg : (runOp p f s op).ce = some g) : g.Sound p (runOp p f s op) := by
  rcases (runOp_leads hf hg).stands_or_moves with ⟨rfl, hs⟩ | hm
  · rw [hs]
    exact h
  · obtain ⟨hinside, _⟩ := Prog.laid_edge hlaid hop hm.edge
    obtain ⟨hparams, _⟩ := runOp_const_frame p f s op
    exact
      { inside := of_decide_eq_true hinside
        busChecked := runOp_bus p f s op ▸ hm.busChecked hlaid h hop
        capacityChecked := hparams ▸ hm.capacityChecked hlaid h hop
        lengthChecked := hm.lengthChecked hlaid h hop
        released := runOp_bus p f s op ▸ hm.released hlaid h hop hclose
        csFramed := runOp_bus p f s op ▸ hm.csFramed hlaid h hop
        byteCounted := hm.byteCounted hlaid h hop
        entryInside := hparams ▸ hm.entryInside hlaid h hop
        errorHeld := hm.errorHeld hlaid h hop }

end Sys2Proof.Machine

namespace Sys2Proof.Machine

/-! ## Chip select after an FCC command (R210, R211) -/

theorem Flight.Sound.congr {p : Prog} {f : Flight} {s t : State} (h : f.Sound p s) (hbus : t.bus = s.bus)
    (hparams : t.params = s.params) : f.Sound p t where
  inside := h.inside
  busChecked := hbus ▸ h.busChecked
  capacityChecked := hparams ▸ h.capacityChecked
  lengthChecked := h.lengthChecked
  released := hbus ▸ h.released
  csFramed := hbus ▸ h.csFramed
  byteCounted := h.byteCounted
  entryInside := hparams ▸ h.entryInside
  errorHeld := h.errorHeld

/-- Only an end of the pseudocode ends the command. -/
theorem runOp_ends {p : Prog} {f : Flight} {s : State} {op : Op} (hf : s.ce = some f)
    (h : (runOp p f s op).ce = none) : op.canEnd = true := by
  have hsettle : ∀ (s' : State) err f', (s'.settle p f err f').ce ≠ none := fun s' err f' => by cases err <;> nofun
  cases op with
  | raiseIf | reraise | complete | awaitEdge => rfl
  | rbWrite _ _ | rbWriteEntry | rbRead _ | rbReadEntry | xfer _ _ | busOpen _ => exact absurd h (hsettle _ _ _)
  | failIf _ _ | skipIf _ _ | csRelease =>
    simp only [runOp] at h
    split at h <;> cases h
  | readEntry | writeBack | storeByte =>
    simp only [runOp, State.ceReadCfg, State.ceWriteCfg, State.ceWriteBuf] at h
    split at h
    · cases h
    · exact absurd (hf.symm.trans h) nofun
  | _ => cases h

/-- An end of the pseudocode does not drive chip select. -/
theorem Op.drives_of_canEnd {op : Op} (h : op.canEnd = true) : op.drives = false := by
  cases op with
  | cs | csRelease => cases h
  | _ => rfl

/-- What every atomic step of an FCC command keeps, once chip select is deasserted or its check behind. -/
structure State.Releasing (p : Prog) (s : State) : Prop where
  ended : s.ce = none → s.bus.cs = false
  sound : ∀ f, s.ce = some f → f.Sound p s
  checked : ∀ f, s.ce = some f → s.bus.cs = false ∨ p.csChecked f.pos = true

section
variable {p : Prog} {f : Flight} {s : State} {op : Op}
  (hreleases : p.onOps p.opReleases = true) (hop : p.code[f.pos]? = some op)
include hreleases hop

/-- An FCC command passes over no release of chip select. -/
theorem Prog.no_skip_of_releases : ∀ count, op ≠ .skipIf (.not (.busUp .sb)) count := by
  rintro count rfl
  simpa [Prog.opReleases, Op.drives, Op.showsReleased] using Prog.onOps_at hreleases hop

/-- Where an FCC command can end, chip select is deasserted. -/
theorem Flight.Sound.cs_of_canEnd (h : f.Sound p s) (hcheck : s.bus.cs = false ∨ p.csChecked f.pos = true)
    (hend : op.canEnd = true) : s.bus.cs = false := by
  have hat := Prog.onOps_at hreleases hop
  simp only [Prog.opReleases, hend, Bool.not_true, Bool.false_or, Bool.and_eq_true, Bool.or_eq_true,
    Bool.not_eq_true'] at hat
  obtain ⟨_, hlevel⟩ := hat
  rcases hcheck with hcs | hcheck
  · exact hcs
  have hlevel := hlevel.resolve_left (by simp [hcheck])
  split at hlevel
  · rename_i hmain
    rw [h.csFramed hmain hcheck]
    simpa using hlevel
  · exact h.released (List.contains_iff_mem.1 hlevel)

/-- Chip select is driven behind its check only. -/
theorem Flight.checked_of_moves {g : Flight} (hlaid : p.laid = true) (hm : op.Moves p f s g)
    (hcheck : s.bus.cs = false ∨ p.csChecked f.pos = true) :
    (op.busAfter s.bus).cs = false ∨ p.csChecked g.pos = true := by
  obtain ⟨_, _, _, _, _, _, _, hkeeps⟩ := Prog.laid_edge hlaid hop hm.edge
  simp only [Prog.edgeKeepsCheck, Bool.or_eq_true, Bool.not_eq_true'] at hkeeps
  have hat := Prog.onOps_at hreleases hop
  simp only [Prog.opReleases, Bool.and_eq_true, Bool.or_eq_true, Bool.not_eq_true'] at hat
  obtain ⟨⟨hdrives, _⟩, _⟩ := hat
  by_cases hc : p.csChecked f.pos = true
  · exact .inr (hkeeps.resolve_left (by simp [hc]))
  · rw [Op.busAfter_cs (hdrives.resolve_right hc)]
    exact .inl (hcheck.resolve_right hc)

/-- Every atomic step of an FCC command keeps chip select to its frames. -/
theorem runOp_keeps_releasing (hlaid : p.laid = true) (hf : s.ce = some f) (h : s.Releasing p) :
    (runOp p f s op).Releasing p where
  ended hce := by
    have hend := runOp_ends hf hce
    rw [runOp_bus, Op.busAfter_cs (Op.drives_of_canEnd hend)]
    exact (h.sound f hf).cs_of_canEnd hreleases hop (h.checked f hf) hend
  sound _ hg := runOp_keeps_sound hlaid hf (h.sound f hf) hop
    (fun count heq => absurd heq (Prog.no_skip_of_releases hreleases hop count)) hg
  checked g hg := by
    rcases (runOp_leads hf hg).stands_or_moves with ⟨rfl, hs⟩ | hm
    · rw [hs]
      exact h.checked g hf
    · rw [runOp_bus]
      exact Flight.checked_of_moves hreleases hop hlaid hm (h.checked f hf)

end

/-- Settles O36: the layout of every FCC command keeps chip select to its frames, step by step. -/
theorem fccEndsWithChipSelectReleased : Obligations.FccEndsWithChipSelectReleased := by
  intro i s t f hi hf hsound hcheck h
  have hreleases := progOf_releases s.params hi
  rw [exec_eq_runCommand] at h
  obtain ⟨_, _, _, rfl⟩ := runCommand_next h
  have hstart : s.dropTurn.Releasing (progOf s.params i) :=
    { ended := fun hce => absurd (hf.symm.trans hce) nofun
      sound := fun g hg => (Option.some.inj (hf.symm.trans hg)) ▸ hsound.congr rfl rfl
      checked := fun g hg => (Option.some.inj (hf.symm.trans hg)) ▸ hcheck }
  have hend := ceSteps_induct (fun _ _ _ hr hg hop => runOp_keeps_releasing hreleases hop (progOf_laid _ _) hg hr)
    (s.world.moreSteps + 1) s.dropTurn hstart
  exact ⟨hend.ended, fun g hg hmain hc => (hend.sound g hg).csFramed hmain hc⟩

/-! ## The capacity of a capture (R228, R230) -/

/-- The capacity operand of a capture. -/
def capOf : Instr → Option (BitVec 24)
  | .fccBurstRead cap | .fccSingleCapture cap => some cap
  | _ => none

theorem progOf_filterMap_checksLength (q : Params) (i : Instr) :
    (progOf q i).code.filterMap Op.checksLength = (capOf i).toList := by
  cases i with
  | busOpen m =>
    simp only [progOf, busOpenProg]
    cases m.getLsbD 0 <;> cases m.getLsbD 1 <;> rfl
  | busClose m =>
    simp only [progOf, busCloseProg]
    cases m.getLsbD 0 <;> cases m.getLsbD 1 <;> rfl
  | _ => rfl

theorem progOf_filterMap_checksCapacity (q : Params) (i : Instr) :
    (progOf q i).code.filterMap Op.checksCapacity = (capOf i).toList := by
  cases i with
  | busOpen m =>
    simp only [progOf, busOpenProg]
    cases m.getLsbD 0 <;> cases m.getLsbD 1 <;> rfl
  | busClose m =>
    simp only [progOf, busCloseProg]
    cases m.getLsbD 0 <;> cases m.getLsbD 1 <;> rfl
  | _ => rfl

/-- Where BUF or BUFLEN is written the length is at most the capacity operand, which fits in BUF. -/
theorem Flight.Sound.length_le {q : Params} {i : Instr} {f : Flight} {s : State} {op : Op}
    (h : f.Sound (progOf q i) s) (hop : (progOf q i).code[f.pos]? = some op) (hfills : op.fillsBuffer = true) :
    ∃ cap, capOf i = some cap ∧ f.len.toNat ≤ cap.toNat ∧ cap.toNat ≤ s.params.bufBytes := by
  obtain ⟨_, hguarded⟩ := Prog.laid_op (progOf_laid q i) hop
  simp only [Prog.opGuarded, hfills, Bool.not_true, Bool.false_or, Bool.and_eq_true, List.any_eq_true,
    decide_eq_true_eq] at hguarded
  obtain ⟨⟨⟨⟨hmain, o₁, ho₁, hsome₁⟩, o₂, ho₂, hsome₂⟩, _⟩, _⟩ := hguarded
  obtain ⟨cap₁, hcap₁⟩ := Option.isSome_iff_exists.1 hsome₁
  obtain ⟨cap₂, hcap₂⟩ := Option.isSome_iff_exists.1 hsome₂
  have hcapOf₁ : cap₁ ∈ (capOf i).toList :=
    progOf_filterMap_checksLength q i ▸ List.mem_filterMap.2 ⟨o₁, List.mem_of_mem_take ho₁, hcap₁⟩
  have hcapOf₂ : cap₂ ∈ (capOf i).toList :=
    progOf_filterMap_checksCapacity q i ▸ List.mem_filterMap.2 ⟨o₂, List.mem_of_mem_take ho₂, hcap₂⟩
  rw [Option.mem_toList] at hcapOf₁ hcapOf₂
  obtain rfl : cap₁ = cap₂ := Option.some.inj (hcapOf₁.symm.trans hcapOf₂)
  exact ⟨cap₁, hcapOf₁, h.lengthChecked hmain o₁ ho₁ cap₁ hcap₁,
    of_decide_eq_true (h.capacityChecked o₂ ho₂ cap₁ hcap₂)⟩

/-- One atomic step of a capture writes no byte at or above the capacity. -/
theorem Flight.Sound.runOp_get? {q : Params} {i : Instr} {f : Flight} {s : State} {op : Op} {cap : BitVec 24}
    (h : f.Sound (progOf q i) s) (hop : (progOf q i).code[f.pos]? = some op) (hcap : capOf i = some cap) {k : Nat}
    (hk : cap.toNat ≤ k) : Memory.get? (runOp (progOf q i) f s op).buf k = Memory.get? s.buf k := by
  by_cases hstore : op = .storeByte
  · subst hstore
    obtain ⟨cap', hcap', hlen, _⟩ := h.length_le hop rfl
    obtain rfl : cap = cap' := Option.some.inj (hcap.symm.trans hcap')
    have hcount := h.byteCounted (by simp [Prog.inByte, hop])
    rw [runOp_storeByte, State.ceWriteBuf]
    split
    · exact Memory.get?_set_other _ _ _ _ (by omega)
    · rfl
  · rw [runOp_buf_frame _ _ _ _ hstore]

/-- Settles O37: each byte is stored at its number, which is below the length, and that is at most the capacity. -/
theorem captureWritesBelowCapacity : Obligations.CaptureWritesBelowCapacity := by
  intro i cap s t f hi hf hsound h k hk
  obtain ⟨hfcc, hcap⟩ : isFcc i = true ∧ capOf i = some cap := by
    rcases hi with rfl | rfl <;> exact ⟨rfl, rfl⟩
  have hreleases := progOf_releases s.params hfcc
  obtain ⟨_, _, _, hepoch⟩ := exec_const_frame h
  rw [exec_eq_runCommand] at h
  obtain ⟨_, _, _, rfl⟩ := runCommand_next h
  have hend := ceSteps_induct
    (Q := fun u => Memory.get? u.buf k = Memory.get? s.buf k ∧ ∀ g, u.ce = some g → g.Sound (progOf s.params i) u)
    (fun u g op ⟨hkept, hg⟩ hce hop => ⟨((hg g hce).runOp_get? hop hcap hk).trans hkept, fun g' hg' =>
      runOp_keeps_sound (progOf_laid _ _) hce (hg g hce) hop
        (fun count heq => absurd heq (Prog.no_skip_of_releases hreleases hop count)) hg'⟩)
    (s.world.moreSteps + 1) s.dropTurn
    ⟨rfl, fun g hg => (Option.some.inj (hf.symm.trans hg)) ▸ hsound.congr rfl rfl⟩
  rw [State.bufByte, State.bufByte, hepoch]
  exact congrArg (Option.getD · _) hend.1

end Sys2Proof.Machine

/-! # The way to a change of FST (42_fifo_capture.md R213, R214)

In front of each assignment to FST stand its guard, its frame and its test; every atomic step on the way keeps what
`FstChange.Holds` says. -/

namespace Sys2Proof.Machine

/-! ## The layout of the way -/

/-- The address byte of the frame. -/
def FstFrame.addr : FstFrame → Byte
  | .write reg _ => fccWriteAddress reg
  | .read reg _ => fccReadAddress reg

/-- The second byte that the frame sends. -/
def FstFrame.data : FstFrame → Byte
  | .write _ val => val
  | .read _ _ => Config.sbDummy

/-- Where the second byte received goes. -/
def FstFrame.slot : FstFrame → Slot
  | .write _ _ => .discard
  | .read _ _ => .v

/-- The operations of the frame. -/
def FstFrame.ops (frame : FstFrame) : List Op :=
  [.cs true, .xfer (.byte frame.addr) .discard, .xfer (.byte frame.data) frame.slot, .cs false]

/-- The mask of the bit that the frame has to show. -/
def FstFrame.mask? : FstFrame → Option Byte
  | .write _ _ => none
  | .read _ mask => some mask

/-- The operation neither touches the frame recorded last nor the byte received last. -/
def Op.quiet : Op → Bool
  | .setFst _ | .skipIf _ _ | .delay _ | .back _ => true
  | _ => false

/-- The mask of a test of the byte received last. -/
def Op.testsMask : Op → Option Byte
  | .skipIf (.bitSet mask) _ | .skipIf (.not (.bitSet mask)) _ => some mask
  | _ => none

/-- Going on at position `n` behind the test, a bit of the mask is set. -/
def Op.showsBit (pos n : Nat) : Op → Bool
  | .skipIf (.bitSet _) _ => n != pos + 1
  | .skipIf (.not (.bitSet _)) count => n != pos + 1 + count
  | _ => false

/-- From no state but the sources does the operation go on at the next position, or it assigns a source. -/
def FstChange.guardedBy (c : FstChange) : Op → Bool
  | .raiseIf k _ => [Fst.idle, .capturing, .done].all fun x => c.sources.contains x || k.fstValue x == some true
  | .skipIf k count =>
    count != 0 && [Fst.idle, .capturing, .done].all fun x => c.sources.contains x || k.fstValue x == some true
  | .setFst y => c.sources.contains y
  | _ => false

/-- The guard is the only way to the positions behind it, and FST is not assigned there. -/
def FstChange.sourceEdge (c : FstChange) (pos : Nat) (op : Op) (n : Nat) : Bool :=
  decide (n ≤ c.guard) || decide (c.change < n) ||
    (decide (c.guard < pos) && decide (pos ≤ c.change) && op.fstSet.isNone) ||
    (pos == c.guard && n == pos + 1 && c.guardedBy op)

/-- The frame is passed operation by operation, and the operations behind it are quiet. -/
def FstChange.frameEdge (c : FstChange) (pos : Nat) (op : Op) (n : Nat) : Bool :=
  decide (n ≤ c.start) || decide (c.change < n) ||
    (decide (c.start ≤ pos) && decide (pos < c.start + 4) && n == pos + 1) ||
    (decide (c.start + 4 ≤ pos) && decide (pos ≤ c.change) && decide (c.start + 4 ≤ n) && op.quiet)

/-- The test is the only way to the positions behind it. -/
def FstChange.testEdge (c : FstChange) (pos : Nat) (op : Op) (n : Nat) : Bool :=
  c.frame.mask?.isNone || decide (n ≤ c.tested) || decide (c.change < n) ||
    (decide (c.tested < pos) && decide (pos ≤ c.change) && op.quiet) || op.showsBit pos n

/-- How a pseudocode lays out the way to a change of FST. -/
structure FstChange.LaidIn (c : FstChange) (p : Prog) : Prop where
  inMain : c.change < p.main.length
  frame : (p.code.drop c.start).take 4 = c.frame.ops
  edges : (p.onOps fun pos op => (op.targets pos).all fun n =>
    c.sourceEdge pos op n && c.frameEdge pos op n && c.testEdge pos op n) = true
  masks : ∀ mask ∈ c.frame.mask?, p.code.filterMap Op.testsMask = [mask]

theorem fccFlush_laidIn (q : Params) : ∀ c ∈ fstChanges q .fccFlush, c.LaidIn (progOf q .fccFlush) := by
  simp only [fstChanges, List.mem_singleton]
  rintro c rfl
  exact ⟨of_decide_eq_true rfl, rfl, rfl, nofun⟩

theorem fccTrigger_laidIn (q : Params) : ∀ c ∈ fstChanges q .fccTrigger, c.LaidIn (progOf q .fccTrigger) := by
  simp only [fstChanges, List.mem_singleton]
  rintro c rfl
  exact ⟨of_decide_eq_true rfl, rfl, rfl, nofun⟩

theorem fccPollDone_laidIn (q : Params) : ∀ c ∈ fstChanges q .fccPollDone, c.LaidIn (progOf q .fccPollDone) := by
  simp only [fstChanges, List.mem_singleton]
  rintro c rfl
  exact ⟨of_decide_eq_true rfl, rfl, rfl, by rintro mask ⟨⟩; rfl⟩

theorem fccSingleCapture_laidIn (q : Params) (cap : BitVec 24) : ∀ c ∈ fstChanges q (.fccSingleCapture cap),
    c.LaidIn (progOf q (.fccSingleCapture cap)) := by
  simp only [fstChanges, List.mem_cons, List.not_mem_nil, or_false]
  rintro c (rfl | rfl | rfl)
  · exact ⟨of_decide_eq_true rfl, rfl, rfl, nofun⟩
  · exact ⟨of_decide_eq_true rfl, rfl, rfl, nofun⟩
  · exact ⟨of_decide_eq_true rfl, rfl, rfl, by rintro mask ⟨⟩; rfl⟩

/-- Every change of FST is laid out in its command's pseudocode. -/
theorem fstChange_laidIn {q : Params} {i : Instr} {c : FstChange} (hc : c ∈ fstChanges q i) :
    c.LaidIn (progOf q i) := by
  cases i with
  | fccFlush => exact fccFlush_laidIn q c hc
  | fccTrigger => exact fccTrigger_laidIn q c hc
  | fccPollDone => exact fccPollDone_laidIn q c hc
  | fccSingleCapture cap => exact fccSingleCapture_laidIn q cap c hc
  | _ => cases hc

/-! ## The frame recorded last -/

theorem FstFrame.events_eq (frame : FstFrame) (r1 r2 : Byte) :
    frame.events r1 r2 = [.sbCs true, sent frame.addr r1, sent frame.data r2, .sbCs false] := by
  cases frame <;> rfl

theorem FstFrame.keeps_keep (frame : FstFrame) (f : Flight) (r2 : Byte) : frame.keeps r2 (f.keep r2 frame.slot).v := by
  cases frame with
  | write => trivial
  | read => rfl

/-- One more event of a history. -/
theorem lastFrame_concat (history : List Event) (e : Event) :
    lastFrame (history ++ [e]) = Event.extendFrame (lastFrame history) e := by
  simp [lastFrame, List.foldl_append]

section
variable {p : Prog} {f g : Flight} {s : State} {op : Op} {n : Nat}

theorem Op.lastFrame_of_quiet (h : op.quiet = true) : lastFrame (runOp p f s op).history = lastFrame s.history := by
  cases op with
  | delay t => exact lastFrame_concat _ _
  | skipIf c count =>
    rw [runOp_skipIf]
    split <;> rfl
  | setFst | back => rfl
  | _ => cases h

theorem Op.localsAfter_of_quiet (h : op.quiet = true) : (op.localsAfter f s).v = f.v := by
  cases op with
  | delay | skipIf | setFst | back => rfl
  | _ => cases h

/-- A transfer that does not go to the handler is recorded as answered. -/
theorem xfer_went {tx : Tx} {slot : Slot} (hg : (runOp p f s (.xfer tx slot)).ce = some g)
    (hmain : g.pos ≠ p.main.length) :
    g.v = (f.keep s.answer.byte slot).v ∧
      (runOp p f s (.xfer tx slot)).history = s.history ++ [sent (tx.value f) s.answer.byte] := by
  rw [runOp_xfer, State.sbTransfer] at hg ⊢
  cases herr : s.answer.sbError with
  | some e =>
    rw [herr] at hg
    cases hg
    exact absurd rfl hmain
  | none =>
    rw [herr] at hg
    cases hg
    exact ⟨rfl, rfl⟩

end

/-! ## The step of `FstChange.Holds` -/

section
variable {c : FstChange} {p : Prog} {f g : Flight} {s : State} {op : Op} {n : Nat}
  (hlaid : c.LaidIn p) (h : c.Holds f s) (hop : p.code[f.pos]? = some op)

include hlaid hop in
theorem FstChange.LaidIn.edge (hn : n ∈ op.targets f.pos) :
    c.sourceEdge f.pos op n = true ∧ c.frameEdge f.pos op n = true ∧ c.testEdge f.pos op n = true := by
  have hat := List.all_eq_true.1 (Prog.onOps_at hlaid.edges hop) n hn
  simp only [Bool.and_eq_true] at hat
  obtain ⟨⟨hsource, hframe⟩, htest⟩ := hat
  exact ⟨hsource, hframe, htest⟩

/-- Behind the guard FST is one of the sources. -/
theorem FstChange.source_of_guardedBy (hguard : c.guardedBy op = true) (htells : op.Tells f s (f.pos + 1)) :
    (runOp p f s op).fst ∈ c.sources := by
  have hother : ∀ k : Cond, k.holds f s = false →
      (∀ x ∈ [Fst.idle, .capturing, .done], (c.sources.contains x || k.fstValue x == some true) = true) →
      s.fst ∈ c.sources := by
    intro k hk hall
    have hx := hall s.fst (by cases s.fst <;> simp)
    simp only [Bool.or_eq_true, List.contains_iff_mem, beq_iff_eq] at hx
    refine hx.resolve_right fun hv => ?_
    rw [Cond.holds_of_fstValue hv] at hk
    cases hk
  cases op with
  | raiseIf k e =>
    rw [runOp_keeps_fst (by rintro ⟨⟩)]
    exact hother k htells (List.all_eq_true.1 hguard)
  | skipIf k count =>
    simp only [FstChange.guardedBy, Bool.and_eq_true, bne_iff_ne] at hguard
    obtain ⟨hcount, hall⟩ := hguard
    rw [runOp_keeps_fst (by rintro ⟨⟩)]
    rcases htells with ⟨_, hk⟩ | ⟨heq, _⟩
    · exact hother k hk (List.all_eq_true.1 hall)
    · omega
  | setFst y => exact List.contains_iff_mem.1 hguard
  | _ => cases hguard

include hlaid h hop in
theorem FstChange.LaidIn.source (hn : n ∈ op.targets f.pos) (htells : op.Tells f s n) (hguard : c.guard < n)
    (hchange : n ≤ c.change) : (runOp p f s op).fst ∈ c.sources := by
  obtain ⟨hsource, _⟩ := hlaid.edge hop hn
  simp only [FstChange.sourceEdge, Bool.or_eq_true, Bool.and_eq_true, decide_eq_true_eq, beq_iff_eq] at hsource
  rcases hsource with ((hbefore | hbehind) | ⟨⟨hlow, hhigh⟩, hset⟩) | ⟨⟨_, rfl⟩, hguarded⟩
  · omega
  · omega
  · rw [runOp_keeps_fst]
    · exact h.source hlow hhigh
    · intro hw
      obtain ⟨x, rfl⟩ := Op.writes_fst hw
      cases hset
  · exact FstChange.source_of_guardedBy hguarded htells

include hlaid in
/-- The operation of the frame at a position inside it. -/
theorem FstChange.LaidIn.frame_op {j : Nat} (hj : j < 4) : p.code[c.start + j]? = c.frame.ops[j]? := by
  rw [← hlaid.frame, List.getElem?_take_of_lt hj, List.getElem?_drop]

include hlaid in
/-- One more operation of the frame records one more event of it. -/
theorem FstChange.LaidIn.recorded_succ {j : Nat} (hj : j < 4) (hpos : f.pos = c.start + j)
    (hop : p.code[f.pos]? = some op) (hg : (runOp p f s op).ce = some g) (hmain : g.pos ≠ p.main.length)
    (hprev : 0 < j → ∃ r1 r2, lastFrame s.history = (c.frame.events r1 r2).take j ∧ (3 ≤ j → c.frame.keeps r2 f.v)) :
    ∃ r1 r2, lastFrame (runOp p f s op).history = (c.frame.events r1 r2).take (j + 1) ∧
      (3 ≤ j + 1 → c.frame.keeps r2 g.v) := by
  have hframe : some op = c.frame.ops[j]? := by rw [← hop, hpos, hlaid.frame_op hj]
  match j, hj with
  | 0, _ =>
    cases hframe
    refine ⟨0, 0, ?_, by omega⟩
    rw [runOp_cs, State.advance_history, State.driveCs_history, lastFrame_concat, FstFrame.events_eq]
    rfl
  | 1, _ =>
    cases hframe
    obtain ⟨_, hhistory⟩ := xfer_went hg hmain
    obtain ⟨r1, r2, hlast, _⟩ := hprev (by omega)
    refine ⟨s.answer.byte, r2, ?_, by omega⟩
    rw [hhistory, lastFrame_concat, hlast, FstFrame.events_eq, FstFrame.events_eq]
    rfl
  | 2, _ =>
    cases hframe
    obtain ⟨hv, hhistory⟩ := xfer_went hg hmain
    obtain ⟨r1, r2, hlast, _⟩ := hprev (by omega)
    refine ⟨r1, s.answer.byte, ?_, fun _ => hv ▸ c.frame.keeps_keep f s.answer.byte⟩
    rw [hhistory, lastFrame_concat, hlast, FstFrame.events_eq, FstFrame.events_eq]
    rfl
  | 3, _ =>
    cases hframe
    cases hg
    obtain ⟨r1, r2, hlast, hkeeps⟩ := hprev (by omega)
    refine ⟨r1, r2, ?_, fun _ => hkeeps le_rfl⟩
    rw [runOp_cs, State.advance_history, State.driveCs_history, lastFrame_concat, hlast, FstFrame.events_eq]
    rfl

include hlaid h hop in
theorem FstChange.LaidIn.recorded (hn : g.pos ∈ op.targets f.pos) (hg : (runOp p f s op).ce = some g)
    (hv : g.v = (op.localsAfter f s).v) (hstart : c.start < g.pos) (hchange : g.pos ≤ c.change) :
    ∃ r1 r2, lastFrame (runOp p f s op).history = (c.frame.events r1 r2).take (g.pos - c.start) ∧
      (c.start + 3 ≤ g.pos → c.frame.keeps r2 g.v) := by
  have hmain := hlaid.inMain
  obtain ⟨_, hframe, _⟩ := hlaid.edge hop hn
  simp only [FstChange.frameEdge, Bool.or_eq_true, Bool.and_eq_true, decide_eq_true_eq, beq_iff_eq] at hframe
  rcases hframe with ((hbefore | hbehind) | ⟨⟨hlow, hhigh⟩, hnext⟩) | ⟨⟨⟨hlow, hhigh⟩, hin⟩, hquiet⟩
  · omega
  · omega
  · have hprev : 0 < f.pos - c.start → ∃ r1 r2, lastFrame s.history = (c.frame.events r1 r2).take (f.pos - c.start) ∧
        (3 ≤ f.pos - c.start → c.frame.keeps r2 f.v) := fun hj => by
      obtain ⟨r1, r2, hlast, hkeeps⟩ := h.recorded (by omega) (by omega)
      exact ⟨r1, r2, hlast, fun _ => hkeeps (by omega)⟩
    obtain ⟨r1, r2, hlast, hkeeps⟩ :=
      hlaid.recorded_succ (j := f.pos - c.start) (by omega) (by omega) hop hg (by omega) hprev
    exact ⟨r1, r2, by rw [hlast]; congr 1; omega, fun _ => hkeeps (by omega)⟩
  · obtain ⟨r1, r2, hlast, hkeeps⟩ := h.recorded (by omega) hhigh
    rw [List.take_of_length_le (by rw [FstFrame.events_length]; omega)] at hlast
    refine ⟨r1, r2, ?_, fun _ => ?_⟩
    · rw [Op.lastFrame_of_quiet hquiet, hlast, List.take_of_length_le (by rw [FstFrame.events_length]; omega)]
    · rw [hv, Op.localsAfter_of_quiet hquiet]
      exact hkeeps (by omega)

/-- Behind a test that goes on where the bit is set, it is. -/
theorem Op.bit_of_showsBit (hshows : op.showsBit f.pos n = true) (htells : op.Tells f s n) :
    ∃ mask, op.testsMask = some mask ∧ f.v &&& mask ≠ 0#8 := by
  unfold Op.showsBit at hshows
  split at hshows
  · rename_i mask count
    rw [bne_iff_ne] at hshows
    refine ⟨mask, rfl, ?_⟩
    rcases htells with ⟨heq, _⟩ | ⟨_, hset⟩
    · exact absurd heq hshows
    · simpa using hset
  · rename_i mask count
    rw [bne_iff_ne] at hshows
    refine ⟨mask, rfl, ?_⟩
    rcases htells with ⟨_, hset⟩ | ⟨heq, _⟩
    · simpa using hset
    · exact absurd heq hshows
  · cases hshows

theorem Op.localsAfter_of_testsMask {mask : Byte} (h : op.testsMask = some mask) : (op.localsAfter f s).v = f.v := by
  cases op with
  | skipIf => rfl
  | _ => cases h

include hlaid h hop in
theorem FstChange.LaidIn.shown (hn : n ∈ op.targets f.pos) (htells : op.Tells f s n)
    (htested : c.tested < n) (hchange : n ≤ c.change) : c.frame.shows (op.localsAfter f s).v := by
  cases hframe : c.frame with
  | write => trivial
  | read reg mask =>
    obtain ⟨_, _, htest⟩ := hlaid.edge hop hn
    have hmask : c.frame.mask? = some mask := by rw [hframe]; rfl
    simp only [FstChange.testEdge, hmask, Option.isNone_some, Bool.false_or, Bool.or_eq_true, Bool.and_eq_true,
      decide_eq_true_eq] at htest
    rcases htest with ((hbefore | hbehind) | ⟨⟨hlow, hhigh⟩, hquiet⟩) | hshows
    · omega
    · omega
    · rw [Op.localsAfter_of_quiet hquiet, ← hframe]
      exact h.shown hlow hhigh
    · obtain ⟨mask', htests, hset⟩ := Op.bit_of_showsBit hshows htells
      have hmem : mask' ∈ p.code.filterMap Op.testsMask :=
        List.mem_filterMap.2 ⟨op, List.mem_of_getElem? hop, htests⟩
      rw [hlaid.masks mask hmask, List.mem_singleton] at hmem
      rw [Op.localsAfter_of_testsMask htests]
      exact hmem ▸ hset

include hlaid h hop in
/-- Every operation keeps what is known on the way to a change of FST. -/
theorem runOp_keeps_fstChange (hf : s.ce = some f) (hg : (runOp p f s op).ce = some g) :
    c.Holds g (runOp p f s op) := by
  have hmain := hlaid.inMain
  cases runOp_leads hf hg with
  | stands heq hs =>
    rw [heq, hs]
    exact h
  | failed e _ heq =>
    have hpos : g.pos = p.main.length := by rw [heq]
    exact ⟨fun _ _ => by omega, fun _ _ => by omega, fun _ _ => by omega⟩
  | goes n hn htells heq =>
    obtain ⟨rfl, hv⟩ : g.pos = n ∧ g.v = (op.localsAfter f s).v := by rw [heq]; exact ⟨rfl, rfl⟩
    exact ⟨hlaid.source h hop hn htells, hlaid.recorded h hop hn hg hv,
      fun ht hc => hv ▸ hlaid.shown h hop hn htells ht hc⟩

end

end Sys2Proof.Machine

/-! # The invariant of the machine

Each atomic step of the engine keeps it (the layout of the pseudocodes), each turn of another agent changes only pieces
of state that it says little about (`State.Inv.change`), and so every step keeps it. -/

namespace Sys2Proof.Machine

/-! ## What a change of the state has to keep -/

/-- What the invariant says about the button state (R46, R271, R273). -/
structure Button.Inv (b : Button) : Prop where
  pendPressed : b.pend = true → b.bst = .pressed
  runLevel : b.cnt = 0#4 ↔ b.cand = none
  levelFromRun : b.dlevel ≠ none → b.cand ≠ none

/-- What the invariant says about CFGMEM (R47). -/
structure Memory.CfgInv (q : Params) (m : Memory) : Prop where
  wf : Memory.wf m
  bound : ∀ c ∈ m, c.1 < 4 * q.cfgWords

/-- The command in flight is left alone, and what the invariant says beside it: ERR, CDONE, FST, the frame recorded
last. -/
structure State.SameFlight (s t : State) : Prop where
  ce : t.ce = s.ce
  err : t.status.err = s.status.err
  cdone : t.status.cdone = true → s.status.cdone = true
  fst : t.fst = s.fst
  frame : lastFrame t.history = lastFrame s.history

section
variable {s t : State}

theorem State.Inv.button (h : s.Inv) : s.button.Inv := ⟨h.pendPressed, h.runLevel, h.levelFromRun⟩

theorem State.Inv.cfgInv (h : s.Inv) : Memory.CfgInv s.params s.cfgmem := ⟨h.cfgmemWf, h.cfgmemBound⟩

theorem FstChange.Holds.congr {c : FstChange} {f : Flight} (h : c.Holds f s) (hfst : t.fst = s.fst)
    (hframe : lastFrame t.history = lastFrame s.history) : c.Holds f t where
  source := hfst ▸ h.source
  recorded := hframe ▸ h.recorded
  shown := h.shown

/-- A change that keeps the parameters, BUF, BUFLEN and the buses, keeps CFGMEM and the button coherent, and leaves the
command in flight alone or ends it. -/
theorem State.Inv.change (h : s.Inv) (hparams : t.params = s.params) (hbuf : t.buf = s.buf)
    (hbufLen : t.bufLen = s.bufLen) (hbus : t.bus = s.bus) (hcfgmem : Memory.CfgInv s.params t.cfgmem)
    (hbutton : t.button.Inv) (hflight : t.ce = none ∨ s.SameFlight t) : t.Inv where
  cfgmemWf := hcfgmem.wf
  bufWf := hbuf ▸ h.bufWf
  cfgmemBound := hparams ▸ hcfgmem.bound
  bufBound := by rw [hbuf, hparams]; exact h.bufBound
  bufLenBound := by rw [hbufLen, hparams]; exact h.bufLenBound
  busyClean hbusy := by
    rcases hflight with hce | hsame
    · simp [State.busy, hce] at hbusy
    · obtain ⟨herr, hcdone⟩ := h.busyClean (by rwa [State.busy, hsame.ce] at hbusy)
      exact ⟨hsame.err.trans herr, Bool.eq_false_iff.2 fun hc => by rw [hsame.cdone hc] at hcdone; cases hcdone⟩
  csNeedsBus := hbus ▸ h.csNeedsBus
  pendPressed := hbutton.pendPressed
  runLevel := hbutton.runLevel
  levelFromRun := hbutton.levelFromRun
  flightSound f i hf hd := by
    rcases hflight with hce | hsame
    · rw [hce] at hf
      cases hf
    · rw [hparams]
      exact (h.flightSound f i (hsame.ce ▸ hf) hd).congr hbus hparams
  fstJustified f i hf hd c hc := by
    rcases hflight with hce | hsame
    · rw [hce] at hf
      cases hf
    · rw [hparams] at hc
      exact (h.fstJustified f i (hsame.ce ▸ hf) hd c hc).congr hsame.fst hsame.frame

/-- The invariant does not look at the world outside. -/
theorem State.Inv.setWorld (h : s.Inv) (w : World) : ({ s with world := w } : State).Inv :=
  h.change rfl rfl rfl rfl h.cfgInv h.button (.inr ⟨rfl, rfl, id, rfl, rfl⟩)

theorem State.Inv.dropTurn (h : s.Inv) : s.dropTurn.Inv := h.setWorld _

/-- An idle machine's invariant does not look at STATUS and RESULT. -/
theorem State.Inv.finish (h : s.Inv) (err : Option Err) (r : Word) : (s.finish err r).Inv :=
  h.change rfl rfl rfl rfl h.cfgInv h.button (.inl rfl)

theorem State.Inv.illegalWord (h : s.Inv) (w : Word) : (s.illegalWord w).Inv := by
  unfold State.illegalWord
  split
  · exact h.finish _ _
  · exact (h.setWorld _).finish _ _

end

/-! ## The sampler (R270 to R276) -/

section
variable {b : Button}

/-- A run of equal samples has at least one sample. -/
theorem Button.extendRun_run (b : Button) (level : Bool) :
    (b.extendRun level).cand = some level ∧ (b.extendRun level).cnt ≠ 0#4 := by
  unfold Button.extendRun
  split
  · rename_i hcand
    refine ⟨hcand, ?_⟩
    dsimp only
    split
    · decide
    · rename_i hmax
      revert hmax
      generalize b.cnt = cnt
      revert cnt
      decide
  · exact ⟨rfl, show 1#4 ≠ 0#4 by decide⟩

theorem Button.extendRun_pendPressed (h : b.Inv) (level : Bool) :
    (b.extendRun level).pend = true → (b.extendRun level).bst = .pressed := by
  unfold Button.extendRun
  split <;> exact h.pendPressed

/-- Accepting a level leaves the run, and a pending edge leaves the button Pressed. -/
theorem Button.acceptLevel_spec (edge : Edge) (level : Bool) (hpend : b.pend = true → b.bst = .pressed) :
    (b.acceptLevel edge level).cand = b.cand ∧ (b.acceptLevel edge level).cnt = b.cnt ∧
      ((b.acceptLevel edge level).pend = true → (b.acceptLevel edge level).bst = .pressed) := by
  unfold Button.acceptLevel
  split
  · exact ⟨rfl, rfl, hpend⟩
  · split
    · exact ⟨rfl, rfl, fun _ => rfl⟩
    · exact ⟨rfl, rfl, hpend⟩

theorem Button.inv_of_run {level : Bool} (hcand : b.cand = some level) (hcnt : b.cnt ≠ 0#4)
    (hpend : b.pend = true → b.bst = .pressed) : b.Inv where
  pendPressed := hpend
  runLevel := by simp [hcand, hcnt]
  levelFromRun _ := by simp [hcand]

theorem Button.Inv.sampleLevel (h : b.Inv) (c : Cfg) (level : Bool) : (b.sampleLevel c level).Inv := by
  obtain ⟨hcand, hcnt⟩ := Button.extendRun_run b level
  have hpend := Button.extendRun_pendPressed h level
  unfold Button.sampleLevel
  split
  · obtain ⟨hcand', hcnt', hpend'⟩ := Button.acceptLevel_spec c.edge level hpend
    exact Button.inv_of_run (hcand'.trans hcand) (hcnt' ▸ hcnt) hpend'
  · exact Button.inv_of_run hcand hcnt hpend

theorem State.Inv.samplePin {s : State} (h : s.Inv) (v : Sample) : (s.samplePin v).Inv := by
  cases v with
  | invalid => exact h
  | level high =>
    exact h.change rfl rfl rfl rfl h.cfgInv (h.button.sampleLevel _ _) (.inr ⟨rfl, rfl, id, rfl, rfl⟩)

end

/-! ## The host port (R70 to R74) -/

section
variable {s : State}

theorem State.Inv.hostRead (h : s.Inv) (a : HAddr) : (s.hostRead a).Inv := by
  rcases s.hostRead_cases a with ⟨r, hdone⟩ | hrefused
  · rw [hdone]
    exact h.change rfl rfl rfl rfl h.cfgInv h.button (.inr ⟨rfl, rfl, id, rfl, lastFrame_concat _ _⟩)
  · rw [hrefused]
    exact h.change rfl rfl rfl rfl h.cfgInv h.button (.inr ⟨rfl, rfl, id, rfl, lastFrame_concat _ _⟩)

theorem State.Inv.writeRefused (h : s.Inv) (a : HAddr) (w : Word) : (s.writeRefused a w).Inv :=
  h.change rfl rfl rfl rfl h.cfgInv h.button (.inr ⟨rfl, rfl, id, rfl, lastFrame_concat _ _⟩)

/-- A recorded host write leaves the last frame. -/
theorem State.Inv.recordWrite (h : s.Inv) (a : HAddr) (w : Word) (outcome : WriteOutcome) :
    (s.record (.hostWrite a w outcome)).Inv :=
  h.change rfl rfl rfl rfl h.cfgInv h.button (.inr ⟨rfl, rfl, id, rfl, lastFrame_concat _ _⟩)

/-- An accepted command stands in front of all its checks (R307). -/
theorem State.Inv.accept (h : s.Inv) (w : Word) : (s.accept w).Inv where
  cfgmemWf := h.cfgmemWf
  bufWf := h.bufWf
  cfgmemBound := h.cfgmemBound
  bufBound := h.bufBound
  bufLenBound := h.bufLenBound
  busyClean _ := ⟨rfl, rfl⟩
  csNeedsBus := h.csNeedsBus
  pendPressed := h.pendPressed
  runLevel := h.runLevel
  levelFromRun := h.levelFromRun
  flightSound f i hf _ := by
    cases hf
    exact Flight.start_sound _ _ _
  fstJustified f i hf _ c _ := by
    cases hf
    exact FstChange.holds_start _ _ _

theorem State.Inv.writeCsr (h : s.Inv) (index : Nat) (a : HAddr) (w : Word) : (s.writeCsr index a w).Inv := by
  unfold State.writeCsr
  split
  case h_1 =>
    unfold State.writeCmd
    split
    · exact h.change rfl rfl rfl rfl h.cfgInv h.button (.inr ⟨rfl, rfl, id, rfl, lastFrame_concat _ _⟩)
    · exact (h.accept w).recordWrite a w _
  case h_2 =>
    refine h.change rfl rfl rfl rfl h.cfgInv h.button (.inr ⟨rfl, rfl, fun hc => ?_, rfl, lastFrame_concat _ _⟩)
    exact (Bool.and_eq_true_iff.1 hc).1
  case h_3 =>
    unfold State.writeCfg
    split
    · exact h.writeRefused a w
    · exact h.change rfl rfl rfl rfl h.cfgInv h.button (.inr ⟨rfl, rfl, id, rfl, lastFrame_concat _ _⟩)
  case h_4 => exact h.recordWrite a w _

/-- A word in the CFGMEM window lies in CFGMEM (R71). -/
theorem lt_cfgWords_of_regionOf {q : Params} {a : HAddr} {i : Nat} (h : regionOf q a = .cfgmem i) : i < q.cfgWords := by
  unfold regionOf at h
  dsimp only at h
  split at h
  · cases h
  · split at h
    · obtain rfl := Region.cfgmem.inj h
      omega
    · split at h <;> cases h

theorem Memory.CfgInv.setWord {q : Params} {m : Memory} {i : Nat} (h : Memory.CfgInv q m) (hi : i < q.cfgWords)
    (w : Word) : Memory.CfgInv q (m.setWord i w) :=
  ⟨Memory.wf_setWord h.wf i w, Memory.bound_setWord h.bound hi w⟩

theorem State.Inv.hostWrite (h : s.Inv) (a : HAddr) (w : Word) : (s.hostWrite a w).Inv := by
  unfold State.hostWrite
  split
  case h_1 => exact h.writeCsr _ a w
  case h_2 hregion =>
    split
    · exact h.writeRefused a w
    · exact h.change rfl rfl rfl rfl (h.cfgInv.setWord (lt_cfgWords_of_regionOf hregion) w) h.button
        (.inr ⟨rfl, rfl, id, rfl, lastFrame_concat _ _⟩)
  case h_3 | h_4 => exact h.writeRefused a w

/-! ## Reset and the turns of the other agents -/

theorem resetWith_inv (q : Params) : (State.resetWith q).Inv where
  cfgmemWf := List.Pairwise.nil
  bufWf := List.Pairwise.nil
  cfgmemBound := nofun
  bufBound := nofun
  bufLenBound := Nat.zero_le _
  busyClean := nofun
  csNeedsBus := nofun
  pendPressed := nofun
  runLevel := ⟨fun _ => rfl, fun _ => rfl⟩
  levelFromRun := fun hne => absurd rfl hne
  flightSound := nofun
  fstJustified := nofun

theorem State.Inv.driveReset (h : s.Inv) (asserted : Bool) : (s.driveReset asserted).Inv := by
  unfold State.driveReset
  split
  · have hreset := resetWith_inv s.params
    exact hreset.change rfl rfl rfl rfl hreset.cfgInv hreset.button (.inl rfl)
  · exact h

theorem State.Inv.otherTurn (h : s.Inv) (turn : Turn) : (s.otherTurn turn).Inv := by
  cases turn with
  | ce more => exact h.dropTurn
  | sample v =>
    rw [State.otherTurn]
    split
    · exact h.dropTurn
    · exact h.dropTurn.samplePin v
  | hostRead a =>
    rw [State.otherTurn]
    split
    · exact h.dropTurn
    · exact h.dropTurn.hostRead a
  | hostWrite a w =>
    rw [State.otherTurn]
    split
    · exact h.dropTurn
    · exact h.dropTurn.hostWrite a w
  | resetInput asserted => exact h.dropTurn.driveReset asserted

end

/-! ## One atomic step of the engine -/

section
variable {s : State} {f : Flight} {op : Op} {i : Instr}

theorem State.Inv.runOp_cfgInv (h : s.Inv) (p : Prog) (f : Flight) (op : Op) :
    Memory.CfgInv s.params (runOp p f s op).cfgmem := by
  by_cases hop : op = .writeBack
  · subst hop
    rw [runOp_writeBack, State.ceWriteCfg]
    split
    · exact h.cfgInv.setWord ‹_› _
    · exact h.cfgInv
  · rw [runOp_cfgmem_frame _ _ _ _ hop]
    exact h.cfgInv

theorem State.Inv.runOp_buf (h : s.Inv) (p : Prog) (f : Flight) (op : Op) :
    Memory.wf (runOp p f s op).buf ∧ ∀ c ∈ (runOp p f s op).buf, c.1 < s.params.bufBytes := by
  by_cases hop : op = .storeByte
  · subst hop
    rw [runOp_storeByte, State.ceWriteBuf]
    split
    · exact ⟨Memory.wf_set h.bufWf _ _, Memory.bound_set h.bufBound ‹_› _⟩
    · exact ⟨h.bufWf, h.bufBound⟩
  · rw [runOp_buf_frame _ _ _ _ hop]
    exact ⟨h.bufWf, h.bufBound⟩

/-- BUFLEN is 0 or a length that was checked against the capacity (R230, R231). -/
theorem State.Inv.runOp_bufLen (h : s.Inv) (hsound : f.Sound (progOf s.params i) s)
    (hop : (progOf s.params i).code[f.pos]? = some op) :
    (runOp (progOf s.params i) f s op).bufLen.toNat ≤ s.params.bufBytes := by
  by_cases hstart : op = .startBuffer
  · subst hstart
    exact Nat.zero_le _
  by_cases hset : op = .setBufLen
  · subst hset
    obtain ⟨cap, _, hlen, hcap⟩ := hsound.length_le hop rfl
    rw [runOp_setBufLen, State.advance_bufLen]
    exact (BitVec.toNat_setWidth_of_le (by decide)).trans_le (hlen.trans hcap)
  · rw [runOp_bufLen_frame _ _ _ _ hstart hset]
    exact h.bufLenBound

/-- Chip select is asserted behind the check of the serial bus, and released before the bus is taken down. -/
theorem State.Inv.runOp_csNeedsBus (h : s.Inv) (hsound : f.Sound (progOf s.params i) s)
    (hop : (progOf s.params i).code[f.pos]? = some op) (hcs : (op.busAfter s.bus).cs = true) :
    (op.busAfter s.bus).sbUp = true := by
  obtain ⟨_, hguarded⟩ := Prog.laid_op (progOf_laid s.params i) hop
  simp only [Prog.opGuarded, Bool.and_eq_true] at hguarded
  obtain ⟨⟨_, hdrive⟩, hclose⟩ := hguarded
  cases op with
  | cs a =>
    simp only [Op.drivesCs, Option.isSome_some, Bool.not_true, Bool.false_or, List.any_eq_true, beq_iff_eq] at hdrive
    obtain ⟨o, ho, hb⟩ := hdrive
    exact hsound.busChecked o ho .sb hb
  | csRelease => cases hcs
  | setUp b v =>
    cases b with
    | rb => exact h.csNeedsBus hcs
    | sb =>
      cases v with
      | true => rfl
      | false =>
        have hrel : (progOf s.params i).releasedAt f.pos = true := by simpa [Op.closesSb] using hclose
        rw [Op.busAfter, BusState.setUp_cs, hsound.released (List.contains_iff_mem.1 hrel)] at hcs
        cases hcs
  | _ => exact h.csNeedsBus hcs

theorem State.Inv.runOp_button (h : s.Inv) (p : Prog) (f : Flight) (op : Op) : (runOp p f s op).button.Inv := by
  obtain ⟨hdlevel, hcand, hcnt, _⟩ := runOp_sampler_frame p f s op
  refine ⟨?_, by rw [hcnt, hcand]; exact h.runLevel, by rw [hdlevel, hcand]; exact h.levelFromRun⟩
  by_cases harm : op = .arm
  · subst harm
    exact nofun
  by_cases hawait : op = .awaitEdge
  · subst hawait
    rw [runOp_awaitEdge, State.takeEdge]
    split
    · exact nofun
    · exact h.pendPressed
  · rw [runOp_button_frame p f s op harm hawait]
    exact h.pendPressed

/-- The command in flight after an operation is the one before it. -/
theorem runOp_keeps_word {p : Prog} {g : Flight} (hf : s.ce = some f) (hg : (runOp p f s op).ce = some g) :
    g.word = f.word := by
  rcases runOp_ce_frame p hf op with hnone | ⟨g', hsome, hword⟩
  · rw [hnone] at hg
    cases hg
  · rw [hsome] at hg
    cases hg
    exact hword

/-- Every atomic step of the engine keeps the invariant. -/
theorem runOp_keeps_inv (h : s.Inv) (hf : s.ce = some f) (hd : decode f.word = .ok i)
    (hop : (progOf s.params i).code[f.pos]? = some op) : (runOp (progOf s.params i) f s op).Inv := by
  have hsound := h.flightSound f i hf hd
  obtain ⟨hparams, _⟩ := runOp_const_frame (progOf s.params i) f s op
  obtain ⟨hkept, _⟩ := runOp_completion_frame (progOf s.params i) hf op
  have hdecode : ∀ g j, (runOp (progOf s.params i) f s op).ce = some g → decode g.word = .ok j → j = i :=
    fun g j hg hj => by
      rw [runOp_keeps_word hf hg, hd] at hj
      exact (Except.ok.inj hj).symm
  have hcfg := h.runOp_cfgInv (progOf s.params i) f op
  obtain ⟨hbufWf, hbufBound⟩ := h.runOp_buf (progOf s.params i) f op
  have hbutton := h.runOp_button (progOf s.params i) f op
  exact
    { cfgmemWf := hcfg.wf
      bufWf := hbufWf
      cfgmemBound := by rw [hparams]; exact hcfg.bound
      bufBound := by rw [hparams]; exact hbufBound
      bufLenBound := by rw [hparams]; exact h.runOp_bufLen hsound hop
      busyClean := fun hbusy => by
        obtain ⟨_, hstatus⟩ := hkept (Option.isSome_iff_ne_none.1 hbusy)
        rw [hstatus]
        exact h.busyClean (by rw [State.busy, hf]; rfl)
      csNeedsBus := runOp_bus _ f s op ▸ h.runOp_csNeedsBus hsound hop
      pendPressed := hbutton.pendPressed
      runLevel := hbutton.runLevel
      levelFromRun := hbutton.levelFromRun
      flightSound := fun g j hg hj => by
        obtain rfl := hdecode g j hg hj
        rw [hparams]
        exact runOp_keeps_sound (progOf_laid _ _) hf hsound hop (fun _ _ => h.csNeedsBus) hg
      fstJustified := fun g j hg hj c hc => by
        obtain rfl := hdecode g j hg hj
        rw [hparams] at hc
        exact runOp_keeps_fstChange (fstChange_laidIn hc) (h.fstJustified f _ hf hd c hc) hop hf hg }

end

/-! ## The step -/

section
variable {s : State}

/-- A command in flight always runs, and its turn keeps the invariant. -/
theorem State.Inv.exec_next (h : s.Inv) {f : Flight} {i : Instr} (hf : s.ce = some f) (hd : decode f.word = .ok i) :
    ∃ t, exec i s = .next t ∧ t.Inv := by
  refine ⟨_, (exec_eq_runCommand i s).trans (runCommand_of_ce hf (h.flightSound f i hf hd).inside), ?_⟩
  refine (ceSteps_induct (Q := fun u => u.Inv ∧ u.params = s.params ∧
    ∀ g, u.ce = some g → decode g.word = .ok i) ?_ (s.world.moreSteps + 1) s.dropTurn
    ⟨h.dropTurn, rfl, fun g hg => Option.some.inj (hf.symm.trans hg) ▸ hd⟩).1
  intro u g op ⟨hu, hparams, hword⟩ hg hop
  obtain ⟨hconst, _⟩ := runOp_const_frame (progOf s.params i) g u op
  rw [← hparams] at hop
  refine ⟨hparams ▸ runOp_keeps_inv hu hg (hword g hg) hop, hconst.trans hparams, fun g' hg' => ?_⟩
  rw [runOp_keeps_word hg hg']
  exact hword g hg

theorem State.Inv.engineTurn_next (h : s.Inv) : ∃ t, engineTurn s = .next t ∧ t.Inv := by
  cases hce : s.ce with
  | none => exact ⟨_, engineTurn_idle hce, h.dropTurn⟩
  | some f =>
    cases hd : decode f.word with
    | ok i =>
      have hrun : engineTurn s = exec i s := by simp only [engineTurn, State.fetch, hce, hd]
      rw [hrun]
      exact h.exec_next hce hd
    | error e => exact ⟨_, engineTurn_illegalWord hce hd, h.dropTurn.illegalWord _⟩

/-- Where a turn is decided, the step keeps the invariant. -/
theorem State.Inv.step_of_turns (h : s.Inv) {turn : Turn} {rest : List Turn} (hturns : s.world.turns = turn :: rest) :
    ∃ t, step s = .next t ∧ t.Inv := by
  cases turn with
  | ce more =>
    cases hreset : s.world.inReset with
    | true => exact ⟨_, step_ce_inReset hturns hreset, h.dropTurn⟩
    | false =>
      rw [step_engineTurn hturns hreset]
      exact h.engineTurn_next
  | sample _ | hostRead _ | hostWrite _ _ | resetInput _ => exact ⟨_, step_otherTurn hturns nofun, h.otherTurn _⟩

/-- A free turn is placed in front where none is decided. -/
theorem State.ready_turns (s : State) : ∃ turn rest, s.ready.world.turns = turn :: rest := by
  unfold State.ready World.ready
  split
  · exact ⟨_, _, rfl⟩
  · exact ⟨_, _, ‹_›⟩

end

/-- Settles O58: the turn at the front is the engine's, whose atomic steps keep the invariant, or another agent's. -/
theorem stepKeepsInvariant : Obligations.StepKeepsInvariant := by
  intro s h
  obtain ⟨turn, rest, hturns⟩ := s.ready_turns
  have hready : step s.ready = step s := by rw [step, State.ready_of_turns hturns, step]
  exact hready ▸ (h.setWorld _).step_of_turns hturns

end Sys2Proof.Machine

/-! # The capture controller: checks and register frames (42_fifo_capture.md R210, R211)

Every FCC command starts with its checks (`fccGuards`) and sends register frames (`frameOps`): both transfers of a frame
succeed and the command goes on behind it, or one fails and the handler has released chip select. -/

namespace Sys2Proof.Machine

/-! ## The checks of an FCC command (R210) -/

/-- The check of the capacity operand (R104 (d)). -/
def capacityGuard : Instr → List (Cond × Err)
  | .fccBurstRead cap | .fccSingleCapture cap => [(.not (.capacityFits cap), .illegalCommand)]
  | _ => []

/-- The check of the FIFO state (R210 (c), R214). -/
def fifoGuard : Instr → List (Cond × Err)
  | .fccFlush | .fccSingleCapture _ => [(.fstIs .capturing, .illegalState)]
  | .fccTrigger => [(.not (.fstIs .idle), .illegalState)]
  | .fccBurstRead _ => [(.not (.fstIs .done), .illegalState)]
  | _ => []

/-- The checks of an FCC command in their order. -/
def fccGuards (i : Instr) : List (Cond × Err) :=
  capacityGuard i ++ [(.not (.busUp .sb), .busUnavailable), (.csAsserted, .illegalState)] ++ fifoGuard i

/-- The operations that make the checks. -/
def guardOps (guards : List (Cond × Err)) : List Op := guards.map fun g => .raiseIf g.1 g.2

theorem progOf_guards (q : Params) {i : Instr} (hi : isFcc i = true) :
    ∃ rest, (progOf q i).code.drop 0 = guardOps (fccGuards i) ++ rest := by
  cases i with
  | fccSelfTest | fccFlush | fccTrigger | fccPollDone | fccReadLen | fccBurstRead | fccSingleCapture | fccWriteReg
  | fccReadReg | fccSetBit | fccClrBit | fccGetBit => exact ⟨_, rfl⟩
  | _ => cases hi

/-- A condition does not look at the position. -/
theorem Cond.holds_goto (c : Cond) (f : Flight) (s : State) (pos : Nat) :
    c.holds { f with pos := pos } (s.goto f pos) = c.holds f s := by
  induction c with
  | not c ih => rw [Cond.holds_not, ih, Cond.holds_not]
  | _ => rfl

section
variable {p : Prog} {f : Flight} {r s : State} {pos : Nat} {guards before behind : List (Cond × Err)} {rest : List Op}
  {c : Cond} {e : Err} {i : Instr}

theorem Reaches.refl : Reaches p 0 s s := ⟨0, le_rfl, rfl⟩

/-- Checks that do not hold are passed. -/
theorem reaches_guards_passed (hcode : p.code.drop pos = guardOps guards ++ rest)
    (hpass : ∀ g ∈ guards, g.1.holds f r = false) :
    Reaches p guards.length (r.goto f pos) (r.goto f (pos + guards.length)) := by
  induction guards generalizing pos with
  | nil => exact .refl
  | cons g guards ih =>
    have hfirst : Reaches p 1 (r.goto f pos) (r.goto f (pos + 1)) :=
      ⟨1, le_rfl, ceSteps_passCheck (n := 0) (code_getElem?_head_of_drop hcode)
        ((Cond.holds_goto _ _ _ _).trans (hpass g List.mem_cons_self))⟩
    have hrest := ih (code_drop_of_append (ops := [.raiseIf g.1 g.2]) hcode) fun g' hg' =>
      hpass g' (List.mem_cons_of_mem g hg')
    rw [List.length_cons, Nat.add_comm guards.length 1, ← Nat.add_assoc]
    exact hfirst.trans hrest

theorem State.raise_goto (s : State) (p : Prog) (f g : Flight) (pos : Nat) (e : Err) (hn : g.n = f.n) (ha : g.a = f.a) :
    (s.goto f pos).raise p g e = s.raise p f e := by
  unfold State.raise
  rw [hn, ha]
  cases p.errResult <;> rfl

/-- The first check that holds ends the command. -/
theorem reaches_guards_raised (hcode : p.code.drop pos = guardOps (before ++ (c, e) :: behind) ++ rest)
    (hpass : ∀ g ∈ before, g.1.holds f r = false) (hc : c.holds f r = true) :
    Reaches p (before.length + 1) (r.goto f pos) (r.raise p f e) := by
  have hcode' : p.code.drop pos = guardOps before ++ (.raiseIf c e :: (guardOps behind ++ rest)) := by
    rw [hcode]
    simp [guardOps]
  refine (reaches_guards_passed hcode' hpass).trans ⟨1, le_rfl, ?_⟩
  have hop : p.code[pos + before.length]? = some (.raiseIf c e) := by
    have hdrop := code_drop_of_append hcode'
    rw [guardOps, List.length_map] at hdrop
    exact code_getElem?_head_of_drop hdrop
  rw [ceSteps_op (n := 0) rfl hop, runOp_raiseIf, if_pos ((Cond.holds_goto _ _ _ _).trans hc)]
  exact r.raise_goto p f _ _ e rfl rfl

/-! ## The checks in terms of the state -/

theorem capacityGuard_passed (h : i.wellFormed s.cfg.aw s.params.bufBytes = true) :
    ∀ g ∈ capacityGuard i, g.1.holds f s = false := by
  cases i with
  | fccBurstRead | fccSingleCapture => simpa [capacityGuard, Instr.wellFormed] using h
  | _ => nofun

theorem capacityGuard_raised (hi : isFcc i = true) (h : i.wellFormed s.cfg.aw s.params.bufBytes = false) :
    ∃ c, capacityGuard i = [(c, .illegalCommand)] ∧ c.holds f s = true := by
  cases i with
  | fccBurstRead | fccSingleCapture => exact ⟨_, rfl, by simpa [Instr.wellFormed] using h⟩
  | rbWrite | rbRead => cases hi
  | _ => cases h

theorem fifoGuard_passed (h : fifoStateAllows i s.fst = true) : ∀ g ∈ fifoGuard i, g.1.holds f s = false := by
  cases i with
  | fccFlush | fccSingleCapture => exact List.forall_mem_singleton.2 (Bool.not_inj h)
  | fccTrigger | fccBurstRead => exact List.forall_mem_singleton.2 (congrArg not h)
  | _ => nofun

theorem fifoGuard_raised (h : fifoStateAllows i s.fst = false) :
    ∃ c, fifoGuard i = [(c, .illegalState)] ∧ c.holds f s = true := by
  cases i with
  | fccFlush | fccSingleCapture => exact ⟨_, rfl, Bool.not_inj h⟩
  | fccTrigger | fccBurstRead => exact ⟨_, rfl, congrArg not h⟩
  | _ => cases h

end

/-- An FCC command whose checks are all passed. -/
structure FccReady (i : Instr) (s : State) : Prop where
  capacity : i.wellFormed s.cfg.aw s.params.bufBytes = true
  up : s.bus.sbUp = true
  deselected : s.bus.cs = false
  fifo : fifoStateAllows i s.fst = true

section
variable {i : Instr} {s t : State} {k steps : Nat}

theorem FccReady.guards_passed (h : FccReady i s) (f : Flight) : ∀ g ∈ fccGuards i, g.1.holds f s = false := by
  intro g hg
  simp only [fccGuards, List.mem_append, List.mem_cons, List.not_mem_nil, or_false] at hg
  rcases hg with (hg | rfl | rfl) | hg
  · exact capacityGuard_passed h.capacity g hg
  · simpa [BusState.up] using h.up
  · exact h.deselected
  · exact fifoGuard_passed h.fifo g hg

/-- An FCC command from behind its checks to its end. -/
theorem exec_of_ready (h : FccReady i s) (hi : isFcc i = true) (hs : Starts i steps s)
    (hr : Reaches (progOf s.params i) k
      ((s.reached 0 [] s.bus).goto (Flight.start (encode i)) (fccGuards i).length) t)
    (hc : t.ce = none) (hsteps : (fccGuards i).length + k ≤ steps := by exact Nat.le_of_ble_eq_true rfl) :
    exec i s = .next t := by
  obtain ⟨rest, hcode⟩ := progOf_guards s.params hi
  have hguards := reaches_guards_passed (r := s.reached 0 [] s.bus) hcode
    (FccReady.guards_passed (s := s.reached 0 [] s.bus) ⟨h.capacity, h.up, h.deselected, h.fifo⟩
      (Flight.start (encode i)))
  rw [Nat.zero_add] at hguards
  exact exec_of_reaches hs ((hguards.trans hr).mono hsteps) hc

end

/-! ## Register frames (R211) -/

/-- The operations of a register frame. -/
def frameOps (addr : Byte) (tx : Tx) (slot : Slot) : List Op :=
  [.cs true, .xfer (.byte addr) .discard, .xfer tx slot, .cs false]

/-- The events of a register frame that succeeds, its answers from number `d` on. -/
def frameAt (x : World) (addr data : Byte) (d : Nat) : List Event :=
  [.sbCs true, sent addr (x.byteAt d), sent data (x.byteAt (d + 1)), .sbCs false]

theorem frameOk_iff {x : World} {d : Nat} :
    frameOk x d = true ↔ (x.answerAt d).isOk = true ∧ (x.answerAt (d + 1)).isOk = true := by
  rw [frameOk, Bool.and_eq_true]

theorem frameTaken_le (x : World) (d : Nat) : frameTaken x d ≤ 2 := by
  unfold frameTaken
  split <;> decide

/-- Where a register frame succeeds, the frame that was tried is the frame sent. -/
theorem frameTried_of_ok {x : World} {addr data : Byte} {d : Nat} (h : frameOk x d = true) :
    frameTried x addr data d = frameAt x addr data d := by
  obtain ⟨hfirst, hsecond⟩ := frameOk_iff.1 h
  rw [frameTried, if_pos hfirst, if_pos hsecond, frameAt]

theorem frameTaken_of_ok {x : World} {d : Nat} (h : frameOk x d = true) : frameTaken x d = 2 :=
  if_pos (frameOk_iff.1 h).1

theorem BusState.deselected {bus : BusState} (h : bus.cs = false) : { bus with cs := false } = bus := by rw [← h]

section
variable {p : Prog} {n pos taken : Nat} {s : State} {f : Flight} {events : List Event} {bus : BusState} {addr : Byte}
  {tx : Tx} {slot : Slot} {rest : List Op}

theorem Tx.value_with_pos (tx : Tx) (f : Flight) (pos : Nat) : tx.value { f with pos := pos } = tx.value f := by
  cases tx <;> rfl

/-- A transfer whose byte may depend on the byte received last. -/
theorem ceSteps_xfer_value (hop : p.code[pos]? = some (.xfer tx slot)) (hok : (s.world.answerAt taken).isOk = true) :
    ceSteps p (n + 1) ((s.reached taken events bus).goto f pos) =
      ceSteps p n ((s.reached (taken + 1) (events ++ [sent (tx.value f) (s.world.byteAt taken)]) bus).goto
        (f.keep (s.world.byteAt taken) slot) (pos + 1)) :=
  ceSteps_settle_none hop (by
    rw [runOp_xfer, State.sbTransfer, State.reached_goto_answer, Answer.ok_of_isOk hok, Answer.sbError_ok,
      Answer.byte_ok, Flight.keep_with_pos, Tx.value_with_pos]
    rfl)

/-- A failed transfer goes to the handler, whose first operation releases chip select (R211). -/
theorem ceSteps_xfer_released (hhandler : p.code[p.main.length]? = some .csRelease)
    (hop : p.code[pos]? = some (.xfer tx slot)) (hfail : (s.world.answerAt taken).isOk = false) (hcs : bus.cs = true) :
    ceSteps p (n + 2) ((s.reached taken events bus).goto f pos) =
      ceSteps p n ((s.reached (taken + 1) (events ++ [failedTransfer (tx.value f), .sbCs false])
        { bus with cs := false }).goto { f with outcome := some .ioFailure } (p.main.length + 1)) := by
  have herr : ((s.reached taken events bus).goto f pos).answer.sbError = some .ioFailure := by
    rw [State.reached_goto_answer, Answer.sbError_of_not_isOk hfail]
  have hfailed : runOp p { f with pos := pos } ((s.reached taken events bus).goto f pos) (.xfer tx slot) =
      (s.reached (taken + 1) (events ++ [failedTransfer (tx.value f)]) bus).goto
        { f with outcome := some .ioFailure } p.main.length := by
    rw [runOp_xfer, State.sbTransfer, herr, Tx.value_with_pos, ← State.reached_answered_record]
    rfl
  rw [ceSteps_op rfl hop, hfailed, ceSteps_csRelease hhandler, if_pos hcs, List.append_assoc]
  rfl

/-- A register frame whose transfers both succeed. -/
theorem reaches_frame (hcode : p.code.drop pos = frameOps addr tx slot ++ rest) (hcs : bus.cs = false)
    (hok : frameOk s.world taken = true) :
    Reaches p 4 ((s.reached taken events bus).goto f pos)
      ((s.reached (taken + 2) (events ++ frameAt s.world addr (tx.value f) taken) bus).goto
        (f.keep (s.world.byteAt (taken + 1)) slot) (pos + 4)) := by
  obtain ⟨hfirst, hsecond⟩ := frameOk_iff.1 hok
  refine ⟨4, le_rfl, ?_⟩
  rw [ceSteps_cs (code_getElem?_head_of_drop hcode), ceSteps_xfer (code_getElem?_of_drop hcode 1) hfirst,
    ceSteps_xfer_value (code_getElem?_of_drop hcode 2) hsecond, ceSteps_cs (code_getElem?_of_drop hcode 3)]
  simp only [List.append_assoc, BusState.deselected hcs]
  rfl

theorem reaches_readFrame {reg : Byte} (hcode : p.code.drop pos = readRegOps reg slot ++ rest) (hcs : bus.cs = false)
    (hok : frameOk s.world taken = true) :
    Reaches p 4 ((s.reached taken events bus).goto f pos)
      ((s.reached (taken + 2) (events ++ readFrameAt s.world reg taken) bus).goto
        (f.keep (s.world.byteAt (taken + 1)) slot) (pos + 4)) :=
  reaches_frame hcode hcs hok

theorem reaches_writeFrame {reg : Byte} (hcode : p.code.drop pos = writeRegOps reg tx ++ rest) (hcs : bus.cs = false)
    (hok : frameOk s.world taken = true) :
    Reaches p 4 ((s.reached taken events bus).goto f pos)
      ((s.reached (taken + 2) (events ++ writeFrameAt s.world reg (tx.value f) taken) bus).goto f (pos + 4)) :=
  reaches_frame hcode hcs hok

/-- A register frame of which a transfer fails: chip select is released and the handler has the error. -/
theorem reaches_frame_failed (hhandler : p.code[p.main.length]? = some .csRelease)
    (hcode : p.code.drop pos = frameOps addr tx slot ++ rest) (hcs : bus.cs = false)
    (hfail : frameOk s.world taken = false) :
    Reaches p (2 + frameTaken s.world taken) ((s.reached taken events bus).goto f pos)
      ((s.reached (taken + frameTaken s.world taken) (events ++ frameTried s.world addr (tx.value f) taken) bus).goto
        { f with outcome := some .ioFailure } (p.main.length + 1)) := by
  cases hfirst : (s.world.answerAt taken).isOk with
  | false =>
    rw [frameTaken, frameTried, if_neg (by simp [hfirst]), if_neg (by simp [hfirst])]
    refine ⟨3, le_rfl, ?_⟩
    rw [ceSteps_cs (code_getElem?_head_of_drop hcode),
      ceSteps_xfer_released hhandler (code_getElem?_of_drop hcode 1) hfirst rfl]
    simp only [List.append_assoc, BusState.deselected hcs]
    rfl
  | true =>
    have hsecond : (s.world.answerAt (taken + 1)).isOk = false := by simpa [frameOk, hfirst] using hfail
    rw [frameTaken, frameTried, if_pos hfirst, if_pos hfirst, if_neg (by simp [hsecond])]
    refine ⟨4, le_rfl, ?_⟩
    rw [ceSteps_cs (code_getElem?_head_of_drop hcode), ceSteps_xfer (code_getElem?_of_drop hcode 1) hfirst,
      ceSteps_xfer_released hhandler (code_getElem?_of_drop hcode 2) hsecond rfl]
    simp only [List.append_assoc, BusState.deselected hcs]
    rfl

/-- The handler that releases chip select (R211). -/
structure Prog.Releases (p : Prog) : Prop where
  handler : p.handler = releaseHandler
  errResult : p.errResult = .free

theorem Prog.Releases.getElem? (h : p.Releases) (j : Nat) : p.code[p.main.length + j]? = releaseHandler[j]? := by
  rw [Prog.code, h.handler, List.getElem?_append_right (by omega), Nat.add_sub_cancel_left]

/-- Behind the release the error ends the command. -/
theorem reaches_reraise {e : Err} (h : p.Releases) :
    Reaches p 1 ((s.reached taken events bus).goto { f with outcome := some e } (p.main.length + 1))
      { s.completedFree taken events e with bus := bus } := by
  refine ⟨1, le_rfl, ?_⟩
  rw [ceSteps_op (n := 0) rfl (h.getElem? 1), runOp_reraise]
  exact congrArg (ceSteps p 0) (State.raise_of_free h.errResult)

/-- A register frame of which a transfer fails ends the command with IOFailure (R211). -/
theorem reaches_frame_ended (h : p.Releases) (hcode : p.code.drop pos = frameOps addr tx slot ++ rest)
    (hcs : bus.cs = false) (hfail : frameOk s.world taken = false) :
    Reaches p (3 + frameTaken s.world taken) ((s.reached taken events bus).goto f pos)
      { s.completedFree (taken + frameTaken s.world taken)
          (events ++ frameTried s.world addr (tx.value f) taken) .ioFailure with bus := bus } :=
  ((reaches_frame_failed (h.getElem? 0) hcode hcs hfail).trans (reaches_reraise h)).mono (by omega)

end

end Sys2Proof.Machine

/-! # The FCC commands of one to three register frames (42_fifo_capture.md R216 to R224, R246 to R258) -/

namespace Sys2Proof.Machine

/-! ## The operations behind a frame -/

section
variable {p : Prog} {n pos taken : Nat} {s : State} {f : Flight} {events : List Event} {bus : BusState}

theorem ceSteps_setFst {x : Fst} (hop : p.code[pos]? = some (.setFst x)) :
    ceSteps p (n + 1) ((s.reached taken events bus).goto f pos) =
      ceSteps p n ((({ s with fst := x } : State).reached taken events bus).goto f (pos + 1)) := by
  rw [ceSteps_op rfl hop]
  rfl

/-- The end of a command that leaves the buses as they were. -/
theorem reaches_complete {x : Val} (hop : p.code[pos]? = some (.complete x)) :
    Reaches p 1 ((s.reached taken events s.bus).goto f pos)
      (s.completed taken events none (x.value { f with pos := pos })) :=
  ⟨1, le_rfl, ceSteps_complete hop⟩

end

theorem World.answersOk.mono {x : World} {m n : Nat} (h : x.answersOk n) (hmn : m ≤ n) : x.answersOk m :=
  fun j hj => h j (by omega)

theorem World.answersOk.frameOk {x : World} {n d : Nat} (h : x.answersOk n) (hd : d + 2 ≤ n) : frameOk x d = true :=
  frameOk_iff.2 ⟨h d (by omega), h (d + 1) (by omega)⟩

/-! ## One frame -/

section
variable {i : Instr} {s : State} {steps : Nat} {addr : Byte} {tx : Tx} {slot : Slot} {x : Val} {rest : List Op}

/-- An FCC command of one frame that succeeds. -/
theorem exec_oneFrame (h : FccReady i s) (hi : isFcc i = true) (hs : Starts i steps s)
    (hcode : (progOf s.params i).code.drop (fccGuards i).length = frameOps addr tx slot ++ .complete x :: rest)
    (hok : frameOk s.world 0 = true) (hsteps : (fccGuards i).length + 5 ≤ steps := by exact Nat.le_of_ble_eq_true rfl) :
    exec i s = .next (s.completed 2 (frameAt s.world addr (tx.value (Flight.start (encode i))) 0) none
      (x.value { (Flight.start (encode i)).keep (s.world.byteAt 1) slot with pos := (fccGuards i).length + 4 })) :=
  exec_of_ready h hi hs ((reaches_frame hcode h.deselected hok).trans
    (reaches_complete (code_getElem?_head_of_drop (code_drop_of_append hcode)))) rfl hsteps

/-- Settles O26: behind the write frame FST is assigned. -/
theorem flushAndTriggerComplete : Obligations.FlushAndTriggerComplete := by
  intro s hup hcs hok
  have hframe := hok.frameOk (d := 0) le_rfl
  refine ⟨fun h hfst => ?flush, fun h hfst => ?trigger⟩
  case flush =>
    refine exec_of_ready ⟨rfl, hup, hcs, bne_iff_ne.2 hfst⟩ rfl h
      ((reaches_writeFrame (rest := [.setFst .idle, .complete .zero] ++ releaseHandler) rfl hcs hframe).trans
        ⟨2, le_rfl, ?_⟩) rfl
    rw [ceSteps_setFst rfl, ceSteps_complete rfl]
    rfl
  case trigger =>
    refine exec_of_ready ⟨rfl, hup, hcs, beq_iff_eq.2 hfst⟩ rfl h
      ((reaches_writeFrame (rest := [.setFst .capturing, .complete .zero] ++ releaseHandler) rfl hcs hframe).trans
        ⟨2, le_rfl, ?_⟩) rfl
    rw [ceSteps_setFst rfl, ceSteps_complete rfl]
    rfl

/-- Settles O32: one frame each, its events written out. -/
theorem registerCommandsComplete : Obligations.RegisterCommandsComplete := by
  intro reg val s hup hcs hok
  have hframe := hok.frameOk (d := 0) le_rfl
  exact ⟨fun h => exec_oneFrame ⟨rfl, hup, hcs, rfl⟩ rfl h rfl hframe,
    fun h => exec_oneFrame ⟨rfl, hup, hcs, rfl⟩ rfl h rfl hframe⟩

theorem Val.value_bit (mask : Byte) (f : Flight) :
    (Val.bit mask).value f = if f.v &&& mask ≠ 0#8 then 1#32 else 0#32 := by
  simp [Val.value]

/-- FCC_POLLDONE behind its frame, the byte received in `v`: Done from Capturing only (R220). -/
theorem reaches_pollDone {taken : Nat} {events : List Event} {f : Flight} :
    Reaches (fccPollDoneProg s.params) 4 ((s.reached taken events s.bus).goto f 6)
      { s.completed taken events none (if f.v &&& s.params.capDoneMask ≠ 0#8 then 1#32 else 0#32) with
        fst := if f.v &&& s.params.capDoneMask ≠ 0#8 ∧ s.fst = .capturing then .done else s.fst } := by
  by_cases hset : f.v &&& s.params.capDoneMask ≠ 0#8
  · by_cases hfst : s.fst = .capturing
    · refine ⟨4, le_rfl, ?_⟩
      rw [ceSteps_noSkip rfl (by simpa using hset), ceSteps_noSkip rfl (by simp [State.reached, hfst]),
        ceSteps_setFst rfl, ceSteps_complete rfl, Val.value_bit, if_pos hset, if_pos ⟨hset, hfst⟩]
      rfl
    · refine ⟨3, by decide, ?_⟩
      rw [ceSteps_noSkip rfl (by simpa using hset), ceSteps_skip rfl (by simp [State.reached, hfst]),
        ceSteps_complete rfl, Val.value_bit, if_pos hset, if_neg fun h => hfst h.2]
      rfl
  · refine ⟨2, by decide, ?_⟩
    rw [ceSteps_skip rfl (by simpa using hset), ceSteps_complete rfl, Val.value_bit, if_neg hset,
      if_neg fun h => hset h.1]
    rfl

/-- Settles O27: the frame, then the tests of the done bit and of FST. -/
theorem pollDoneCompletes : Obligations.PollDoneCompletes := by
  intro s h hup hcs hok isDone
  have hread := reaches_readFrame (p := fccPollDoneProg s.params) (pos := 2) (events := [])
    (f := Flight.start (encode .fccPollDone)) (reg := s.params.regTrig) (slot := .v) rfl hcs
    (hok.frameOk (d := 0) le_rfl)
  exact exec_of_ready ⟨rfl, hup, hcs, rfl⟩ rfl h (hread.trans reaches_pollDone) rfl

end

/-! ## Three read frames (R211, R224) -/

section
variable {p : Prog} {pos taken : Nat} {s : State} {f : Flight} {events : List Event} {bus : BusState} {q : Params}
  {rest : List Op}

theorem lengthOk_iff {x : World} {d : Nat} :
    lengthOk x d = true ↔ frameOk x d = true ∧ frameOk x (d + 2) = true ∧ frameOk x (d + 4) = true := by
  rw [lengthOk, Bool.and_eq_true, Bool.and_eq_true, and_assoc]

theorem World.answersOk.lengthOk {x : World} {n d : Nat} (h : x.answersOk n) (hd : d + 6 ≤ n) : lengthOk x d = true :=
  lengthOk_iff.2 ⟨h.frameOk (by omega), h.frameOk (by omega), h.frameOk (by omega)⟩

/-- The locals behind the length reads. -/
def Flight.withLengthBytes (f : Flight) (x : World) (d : Nat) : Flight :=
  { f with b1 := x.byteAt (d + 1), b2 := x.byteAt (d + 3), b3 := x.byteAt (d + 5) }

/-- The length reads succeed. -/
theorem reaches_length (hcode : p.code.drop pos = readLengthOps q ++ rest) (hcs : bus.cs = false)
    (hok : lengthOk s.world taken = true) :
    Reaches p 12 ((s.reached taken events bus).goto f pos)
      ((s.reached (taken + 6) (events ++ lengthFramesAt s.world q taken) bus).goto (f.withLengthBytes s.world taken)
        (pos + 12)) := by
  obtain ⟨hok1, hok2, hok3⟩ := lengthOk_iff.1 hok
  simp only [readLengthOps, List.append_assoc] at hcode
  have hcode2 := code_drop_of_append hcode
  have hcode3 := code_drop_of_append hcode2
  have h := ((reaches_readFrame (s := s) (f := f) (events := events) hcode hcs hok1).trans
    (reaches_readFrame hcode2 hcs hok2)).trans (reaches_readFrame hcode3 hcs hok3)
  simp only [List.append_assoc] at h
  rw [lengthFramesAt, List.append_assoc]
  exact h

/-- A failed length read ends the command (R211, R224). -/
theorem reaches_length_ended (hp : p.Releases) (hcode : p.code.drop pos = readLengthOps q ++ rest)
    (hcs : bus.cs = false) (hfail : lengthOk s.world taken = false) :
    Reaches p 13 ((s.reached taken events bus).goto f pos)
      { s.completedFree (taken + lengthTaken s.world taken) (events ++ lengthTried s.world q taken) .ioFailure with
        bus := bus } := by
  simp only [readLengthOps, List.append_assoc] at hcode
  have hcode2 := code_drop_of_append hcode
  have hcode3 := code_drop_of_append hcode2
  cases hok1 : frameOk s.world taken with
  | false =>
    have hle := frameTaken_le s.world taken
    rw [lengthTaken, lengthTried, hok1, if_neg Bool.false_ne_true, if_neg Bool.false_ne_true, List.append_nil]
    exact (reaches_frame_ended hp hcode hcs hok1).mono (by omega)
  | true =>
    have hread1 := reaches_readFrame (s := s) (f := f) (events := events) hcode hcs hok1
    cases hok2 : frameOk s.world (taken + 2) with
    | false =>
      have hle := frameTaken_le s.world (taken + 2)
      have h := (hread1.trans (reaches_frame_ended hp hcode2 hcs hok2)).mono (l := 13) (by omega)
      simp only [List.append_assoc, Nat.add_assoc] at h
      rw [lengthTaken, lengthTried, hok1, hok2, if_pos rfl, if_pos rfl, if_neg Bool.false_ne_true,
        if_neg Bool.false_ne_true, List.append_nil, readFrameTried, frameTried_of_ok hok1]
      exact h
    | true =>
      have hok3 : frameOk s.world (taken + 2 + 2) = false := by simpa [lengthOk, hok1, hok2] using hfail
      have hle := frameTaken_le s.world (taken + 2 + 2)
      have h := ((hread1.trans (reaches_readFrame hcode2 hcs hok2)).trans
        (reaches_frame_ended hp hcode3 hcs hok3)).mono (l := 13) (by omega)
      simp only [List.append_assoc, Nat.add_assoc] at h
      rw [lengthTaken, lengthTried, hok1, hok2, if_pos rfl, if_pos rfl, if_pos rfl, if_pos rfl, readFrameTried,
        frameTried_of_ok hok1, readFrameTried, frameTried_of_ok hok2,
        show 4 + frameTaken s.world (taken + 4) = 2 + (2 + frameTaken s.world (taken + 4)) by omega]
      exact h

/-- The length in numbers (R117). -/
theorem fifoLength_toNat (b1 b2 b3 : Byte) :
    (fifoLength b1 b2 b3).toNat = (b3.toNat * 0x10000 + b2.toNat * 0x100 + b1.toNat) % 0x800000 := by
  have h1 := b1.isLt
  have h2 := b2.isLt
  have h3 := b3.isLt
  have hbytes : ((zext32 b3 <<< 16) ||| (zext32 b2 <<< 8) ||| zext32 b1).toNat =
      b3.toNat * 0x10000 + b2.toNat * 0x100 + b1.toNat := by
    have hor1 : b3.toNat <<< 16 ||| b2.toNat <<< 8 = b3.toNat <<< 16 + b2.toNat <<< 8 :=
      (Nat.shiftLeft_add_eq_or_of_lt (by rw [Nat.shiftLeft_eq]; omega) _).symm
    have hor2 : (b3.toNat <<< 8 + b2.toNat) <<< 8 ||| b1.toNat = (b3.toNat <<< 8 + b2.toNat) <<< 8 + b1.toNat :=
      (Nat.shiftLeft_add_eq_or_of_lt h1 _).symm
    have hshift : b3.toNat <<< 16 + b2.toNat <<< 8 = (b3.toNat <<< 8 + b2.toNat) <<< 8 := by
      simp only [Nat.shiftLeft_eq]
      omega
    rw [BitVec.toNat_or, BitVec.toNat_or, BitVec.toNat_shiftLeft, BitVec.toNat_shiftLeft,
      BitVec.toNat_setWidth_of_le (by decide), BitVec.toNat_setWidth_of_le (by decide),
      BitVec.toNat_setWidth_of_le (by decide), Nat.mod_eq_of_lt (by rw [Nat.shiftLeft_eq]; omega),
      Nat.mod_eq_of_lt (by rw [Nat.shiftLeft_eq]; omega), hor1, hshift, hor2]
    simp only [Nat.shiftLeft_eq]
    omega
  rw [fifoLength, BitVec.toNat_setWidth, BitVec.toNat_and, hbytes]
  exact (congrArg (· % 2 ^ 23) (Nat.and_two_pow_sub_one_eq_mod _ 23)).trans (Nat.mod_mod _ _)

/-- Settles O28: three read frames, then the length of the bytes kept. -/
theorem readLenCompletes : Obligations.ReadLenCompletes := by
  intro s h hup hcs hok
  refine ⟨?_, fifoLength_toNat _ _ _⟩
  have hlength := reaches_length (p := fccReadLenProg s.params) (pos := 2) (events := [])
    (f := Flight.start (encode .fccReadLen)) (rest := .complete .lengthBytes :: releaseHandler) rfl hcs
    (hok.lengthOk (d := 0) le_rfl)
  exact exec_of_ready ⟨rfl, hup, hcs, rfl⟩ rfl h (hlength.trans (reaches_complete (x := .lengthBytes) rfl)) rfl

end

/-! ## A read frame and a write frame (R254, R256) -/

section
variable {i : Instr} {s : State} {reg : Byte} {tx : Tx}

/-- The operations of FCC_SETBIT and FCC_CLRBIT behind their checks. -/
def updateOps (reg : Byte) (tx : Tx) : List Op :=
  readRegOps reg .v ++ (writeRegOps reg tx ++ (.complete .zero :: releaseHandler))

/-- The locals behind the read frame. -/
def updateFlight (i : Instr) (s : State) : Flight := { Flight.start (encode i) with v := s.world.byteAt 1 }

theorem reaches_updateRead (hcode : (progOf s.params i).code.drop (fccGuards i).length = updateOps reg tx)
    (hcs : s.bus.cs = false) (hok : frameOk s.world 0 = true) :
    Reaches (progOf s.params i) 4 ((s.reached 0 [] s.bus).goto (Flight.start (encode i)) (fccGuards i).length)
      ((s.reached 2 (readFrameAt s.world reg 0) s.bus).goto (updateFlight i s) ((fccGuards i).length + 4)) :=
  reaches_readFrame hcode hcs hok

/-- FCC_SETBIT and FCC_CLRBIT write back what they make of the byte read. -/
theorem exec_update {steps : Nat} (h : FccReady i s) (hi : isFcc i = true) (hs : Starts i steps s)
    (hcode : (progOf s.params i).code.drop (fccGuards i).length = updateOps reg tx) (hok : s.world.answersOk 4)
    (hsteps : (fccGuards i).length + 9 ≤ steps := by exact Nat.le_of_ble_eq_true rfl) :
    exec i s = .next (s.completed 4
      (readFrameAt s.world reg 0 ++ writeFrameAt s.world reg (tx.value (updateFlight i s)) 2) none 0#32) :=
  have hcode' := code_drop_of_append hcode
  exec_of_ready h hi hs (((reaches_updateRead hcode h.deselected (hok.frameOk (by decide))).trans
    (reaches_writeFrame hcode' h.deselected (hok.frameOk le_rfl))).trans
      (reaches_complete (code_getElem?_head_of_drop (code_drop_of_append hcode')))) rfl hsteps

/-- Settles O33: the byte read is kept in `v`, which the write frame and the result are made of. -/
theorem bitCommandsComplete : Obligations.BitCommandsComplete := fun _ _ _ hup hcs =>
  ⟨fun h hok => exec_update ⟨rfl, hup, hcs, rfl⟩ rfl h rfl hok,
    fun h hok => exec_update ⟨rfl, hup, hcs, rfl⟩ rfl h rfl hok,
    fun h hok => exec_oneFrame ⟨rfl, hup, hcs, rfl⟩ rfl h rfl (hok.frameOk le_rfl)⟩

end

end Sys2Proof.Machine

/-! # The errors of the FCC commands (42_fifo_capture.md R210, R211) -/

namespace Sys2Proof.Machine

/-! ## The checks in their order (R210, R305) -/

section
variable {i : Instr} {s : State} {e : Err} {steps : Nat} {c : Cond} {before behind : List (Cond × Err)}

theorem fccGuards_length_le (i : Instr) : (fccGuards i).length ≤ 4 := by
  cases i <;> exact Nat.le_of_ble_eq_true rfl

/-- The first check that holds ends the command before any traffic. -/
theorem exec_guard_raised (hi : isFcc i = true) (h : Starts i 4 s)
    (hguards : fccGuards i = before ++ (c, e) :: behind)
    (hpass : ∀ g ∈ before, g.1.holds (Flight.start (encode i)) (s.reached 0 [] s.bus) = false)
    (hc : c.holds (Flight.start (encode i)) (s.reached 0 [] s.bus) = true) :
    exec i s = .next ((s.reached 0 [] s.bus).raise (progOf s.params i) (Flight.start (encode i)) e) := by
  obtain ⟨rest, hcode⟩ := progOf_guards s.params hi
  rw [hguards] at hcode
  have hlength := fccGuards_length_le i
  rw [hguards, List.length_append, List.length_cons] at hlength
  exact exec_of_reaches h ((reaches_guards_raised hcode hpass hc).mono (by omega)) (State.raise_ce _ _ _ _)

/-- An error before any traffic touches the completion fields only. -/
theorem State.raise_start (s : State) (p : Prog) (w : Word) (e : Err) :
    ∃ r k, (s.reached 0 [] s.bus).raise p (Flight.start w) e =
      { s.completed 0 [] (some e) r with world := { s.world.dropTurn with tick := k } } ∧
        (p.errResult = .attempts → r = 0#32) := by
  unfold State.raise
  cases p.errResult with
  | free => exact ⟨_, _, rfl, nofun⟩
  | entries | attempts => exact ⟨0#32, s.world.tick, rfl, fun _ => rfl⟩

end

/-- Settles O34: each case of the statement is the first check that holds. -/
theorem fccCheckOrder : Obligations.FccCheckOrder := by
  intro i s hi h e hcase
  have hraised : exec i s = .next ((s.reached 0 [] s.bus).raise (progOf s.params i) (Flight.start (encode i)) e) := by
    rcases hcase with ⟨hbad, rfl⟩ | ⟨hwell, hdown, rfl⟩ | ⟨hwell, hup, hcs, rfl⟩ | ⟨hwell, hup, hcs, hfifo, rfl⟩
    · obtain ⟨c, hguard, hc⟩ := capacityGuard_raised (s := s.reached 0 [] s.bus) (f := Flight.start (encode i)) hi hbad
      exact exec_guard_raised (before := []) hi h (by rw [fccGuards, hguard]; rfl) nofun hc
    · exact exec_guard_raised (before := capacityGuard i) hi h (by rw [fccGuards, List.append_assoc]; rfl)
        (capacityGuard_passed (s := s.reached 0 [] s.bus) hwell) (by simp [BusState.up, hdown])
    · refine exec_guard_raised (before := capacityGuard i ++ [(.not (.busUp .sb), .busUnavailable)])
        (c := .csAsserted) (behind := fifoGuard i) hi h
        (by simp [fccGuards]) (fun g hg => ?_) hcs
      rcases List.mem_append.1 hg with hg | hg
      · exact capacityGuard_passed (s := s.reached 0 [] s.bus) hwell g hg
      · obtain rfl := List.mem_singleton.1 hg
        simp [BusState.up, hup]
    · obtain ⟨c, hguard, hc⟩ := fifoGuard_raised (s := s.reached 0 [] s.bus)
        (f := Flight.start (encode i)) hfifo
      refine exec_guard_raised
        (before := capacityGuard i ++ [(.not (.busUp .sb), .busUnavailable), (.csAsserted, .illegalState)]) hi h
        (by rw [fccGuards, hguard]) (fun g hg => ?_) hc
      simp only [List.mem_append, List.mem_cons, List.not_mem_nil, or_false] at hg
      rcases hg with hg | rfl | rfl
      · exact capacityGuard_passed (s := s.reached 0 [] s.bus) hwell g hg
      · simp [BusState.up, hup]
      · exact hcs
  obtain ⟨r, k, heq, hr⟩ := s.raise_start (progOf s.params i) (encode i) e
  refine ⟨r, k, hraised.trans (congrArg _ heq), ?_⟩
  rintro m rfl
  exact hr rfl

/-! ## Failed frames (R211, R213, R224) -/

section
variable {i : Instr} {s : State} {steps : Nat} {addr reg : Byte} {tx : Tx} {slot : Slot} {rest : List Op}

/-- An FCC command whose first frame fails. -/
theorem exec_firstFrame_failed (h : FccReady i s) (hi : isFcc i = true) (hs : Starts i steps s)
    (hp : (progOf s.params i).Releases)
    (hcode : (progOf s.params i).code.drop (fccGuards i).length = frameOps addr tx slot ++ rest)
    (hfail : frameOk s.world 0 = false)
    (hsteps : (fccGuards i).length + 5 ≤ steps := by exact Nat.le_of_ble_eq_true rfl) :
    exec i s = .next (s.completedFree (frameTaken s.world 0)
      (frameTried s.world addr (tx.value (Flight.start (encode i))) 0) .ioFailure) := by
  have hle := frameTaken_le s.world 0
  have hframe := reaches_frame_ended (f := Flight.start (encode i)) (events := []) hp hcode h.deselected hfail
  rw [Nat.zero_add, List.nil_append] at hframe
  exact exec_of_ready h hi hs hframe rfl (by omega)

/-- An FCC command whose first frame is a read frame, which fails. -/
theorem exec_firstRead_failed (h : FccReady i s) (hi : isFcc i = true) (hs : Starts i steps s)
    (hp : (progOf s.params i).Releases)
    (hcode : (progOf s.params i).code.drop (fccGuards i).length = readRegOps reg slot ++ rest)
    (hfail : frameOk s.world 0 = false)
    (hsteps : (fccGuards i).length + 5 ≤ steps := by exact Nat.le_of_ble_eq_true rfl) :
    exec i s = .next (s.completedFree (frameTaken s.world 0) (readFrameTried s.world reg 0) .ioFailure) :=
  exec_firstFrame_failed h hi hs hp hcode hfail hsteps

/-- An FCC command whose first frame is a write frame, which fails. -/
theorem exec_firstWrite_failed {val : Byte} (h : FccReady i s) (hi : isFcc i = true) (hs : Starts i steps s)
    (hp : (progOf s.params i).Releases)
    (hcode : (progOf s.params i).code.drop (fccGuards i).length = writeRegOps reg (.byte val) ++ rest)
    (hfail : frameOk s.world 0 = false)
    (hsteps : (fccGuards i).length + 5 ≤ steps := by exact Nat.le_of_ble_eq_true rfl) :
    exec i s = .next (s.completedFree (frameTaken s.world 0) (writeFrameTried s.world reg val 0) .ioFailure) :=
  exec_firstFrame_failed h hi hs hp hcode hfail hsteps

/-- FCC_SETBIT and FCC_CLRBIT whose write frame fails. -/
theorem exec_update_failed {val : Byte} (h : FccReady i s) (hi : isFcc i = true) (hs : Starts i steps s)
    (hp : (progOf s.params i).Releases)
    (hcode : (progOf s.params i).code.drop (fccGuards i).length = updateOps reg tx)
    (hval : tx.value (updateFlight i s) = val)
    (hok : frameOk s.world 0 = true) (hfail : frameOk s.world 2 = false)
    (hsteps : (fccGuards i).length + 9 ≤ steps := by exact Nat.le_of_ble_eq_true rfl) :
    exec i s = .next (s.completedFree (2 + frameTaken s.world 2)
      (readFrameAt s.world reg 0 ++ writeFrameTried s.world reg val 2) .ioFailure) := by
  have hle := frameTaken_le s.world 2
  rw [← hval]
  exact exec_of_ready h hi hs ((reaches_updateRead hcode h.deselected hok).trans
    (reaches_frame_ended hp (code_drop_of_append hcode) h.deselected hfail)) rfl (by omega)

/-- FCC_READLEN and FCC_BURSTREAD whose length read fails. -/
theorem exec_length_failed (h : FccReady i s) (hi : isFcc i = true) (hs : Starts i steps s)
    (hp : (progOf s.params i).Releases)
    (hcode : (progOf s.params i).code.drop (fccGuards i).length = readLengthOps s.params ++ rest)
    (hfail : lengthOk s.world 0 = false)
    (hsteps : (fccGuards i).length + 13 ≤ steps := by exact Nat.le_of_ble_eq_true rfl) :
    exec i s = .next (s.completedFree (lengthTaken s.world 0) (lengthTried s.world s.params 0) .ioFailure) := by
  have hlength := reaches_length_ended (f := Flight.start (encode i)) (events := []) hp hcode h.deselected hfail
  rw [Nat.zero_add, List.nil_append] at hlength
  exact exec_of_ready h hi hs hlength rfl hsteps

end

/-- Settles O59: the first frame of each command, the write frame of FCC_SETBIT and FCC_CLRBIT, the length reads. -/
theorem fccFailedFrameEndsCommand : Obligations.FccFailedFrameEndsCommand := by
  intro s hup hcs
  refine ⟨fun hfail => ⟨fun h hfst => ?flush, fun h hfst => ?trigger, fun h => ?poll, fun reg val h => ?write,
    fun i reg hi h => ?read⟩, fun hok hfail reg mask => ⟨fun h => ?set, fun h => ?clear⟩,
    fun hfail => ⟨fun h => ?readLen, fun cap h hcap hfst => ?burst⟩⟩
  case flush =>
    exact exec_firstWrite_failed (i := .fccFlush) ⟨rfl, hup, hcs, bne_iff_ne.2 hfst⟩ rfl h ⟨rfl, rfl⟩ rfl hfail
  case trigger =>
    exact exec_firstWrite_failed (i := .fccTrigger) ⟨rfl, hup, hcs, beq_iff_eq.2 hfst⟩ rfl h ⟨rfl, rfl⟩ rfl hfail
  case poll => exact exec_firstRead_failed ⟨rfl, hup, hcs, rfl⟩ rfl h ⟨rfl, rfl⟩ rfl hfail
  case write => exact exec_firstWrite_failed ⟨rfl, hup, hcs, rfl⟩ rfl h ⟨rfl, rfl⟩ rfl hfail
  case read =>
    rcases hi with rfl | ⟨mask, rfl | rfl | rfl⟩
    · exact exec_firstRead_failed (i := .fccReadReg reg) ⟨rfl, hup, hcs, rfl⟩ rfl h ⟨rfl, rfl⟩ rfl hfail
    · exact exec_firstRead_failed (i := .fccGetBit reg mask) ⟨rfl, hup, hcs, rfl⟩ rfl h ⟨rfl, rfl⟩ rfl hfail
    · exact exec_firstRead_failed (i := .fccSetBit reg mask) ⟨rfl, hup, hcs, rfl⟩ rfl h ⟨rfl, rfl⟩ rfl hfail
    · exact exec_firstRead_failed (i := .fccClrBit reg mask) ⟨rfl, hup, hcs, rfl⟩ rfl h ⟨rfl, rfl⟩ rfl hfail
  case set => exact exec_update_failed ⟨rfl, hup, hcs, rfl⟩ rfl h ⟨rfl, rfl⟩ rfl rfl hok hfail
  case clear => exact exec_update_failed ⟨rfl, hup, hcs, rfl⟩ rfl h ⟨rfl, rfl⟩ rfl rfl hok hfail
  case readLen => exact exec_length_failed ⟨rfl, hup, hcs, rfl⟩ rfl h ⟨rfl, rfl⟩ rfl hfail
  case burst =>
    exact exec_length_failed (i := .fccBurstRead cap) ⟨decide_eq_true hcap, hup, hcs, beq_iff_eq.2 hfst⟩ rfl h
      ⟨rfl, rfl⟩ rfl hfail

end Sys2Proof.Machine

/-! # The self-test (42_fifo_capture.md R212) and the first frame of the other FCC commands (R211)

An attempt ends behind the comparison, where the command completes, or in the handler with an outcome; a failed attempt
that is not the last goes back to the next one. -/

namespace Sys2Proof.Machine

/-! ## The attempt counter -/

theorem attemptCount_toNat {count : Nat} (h : count < 0xFFFFFFFF) : (attemptCount count).toNat = count := by
  rw [attemptCount, BitVec.toNat_ofNat, Nat.min_eq_left (by omega), Nat.mod_eq_of_lt (by omega)]

theorem saturatingSucc_attemptCount (count : Nat) : saturatingSucc (attemptCount count) = attemptCount (count + 1) := by
  by_cases h : count < 0xFFFFFFFF
  · have hne : attemptCount count ≠ 0xFFFFFFFF#32 := fun heq => by
      have := attemptCount_toNat h
      rw [heq] at this
      simp at this
      omega
    rw [saturatingSucc, if_neg hne, attemptCount, attemptCount, Nat.min_eq_left (by omega), Nat.min_eq_left (by omega),
      BitVec.ofNat_add]
  · rw [attemptCount, attemptCount, Nat.min_eq_right (by omega), Nat.min_eq_right (by omega)]
    rfl

theorem zext32_toNat_of_word16 (m : BitVec 16) : (zext32 m).toNat = m.toNat := BitVec.toNat_setWidth_of_le (by decide)

/-- The attempts are not spent while their number is below MAXATT, or where MAXATT is 0 (R212). -/
theorem attemptsSpent_eq_false {m : BitVec 16} {f : Flight} {s : State} {count : Nat} (ha : f.a = attemptCount count)
    (h : m = 0#16 ∨ count < m.toNat) : (Cond.attemptsSpent m).holds f s = false := by
  rw [Cond.holds_attemptsSpent]
  rcases h with rfl | h
  · rfl
  · have := m.isLt
    rw [zext32_toNat_of_word16, ha, attemptCount_toNat (by omega), decide_eq_false (by omega), Bool.and_false]

theorem attemptCount_of_toNat_eq {m : BitVec 16} {count : Nat} (h : m.toNat = count) :
    attemptCount count = zext32 m := by
  have := m.isLt
  exact BitVec.eq_of_toNat_eq (by rw [attemptCount_toNat (by omega), zext32_toNat_of_word16, h])

theorem attemptsSpent_eq_true {m : BitVec 16} {f : Flight} {s : State} {count : Nat}
    (ha : f.a = attemptCount (count + 1)) (h : m.toNat = count + 1) : (Cond.attemptsSpent m).holds f s = true := by
  have hne : m ≠ 0#16 := fun heq => by simp [heq] at h
  rw [Cond.holds_attemptsSpent, ha, attemptCount_of_toNat_eq h, decide_eq_true le_rfl, Bool.and_true]
  exact bne_iff_ne.2 hne

theorem fccGuards_length_selfTest (m : BitVec 16) : (fccGuards (.fccSelfTest m)).length = 2 := rfl

/-! ## One attempt -/

section
variable {s : State} {m : BitVec 16} {taken count : Nat} {events : List Event} {bus : BusState} {f : Flight}

/-- The locals behind the comparison. -/
def Flight.attempted (f : Flight) (x : World) (taken : Nat) : Flight :=
  { f with a := saturatingSucc f.a, v := x.byteAt (taken + 3) }

theorem reaches_attempt (s : State) (m : BitVec 16) (taken : Nat) (events : List Event) (bus : BusState) (f : Flight) :
    Reaches (fccSelfTestProg s.params m) 1 ((s.reached taken events bus).goto f 2)
      ((s.reached taken events bus).goto { f with a := saturatingSucc f.a } 3) := by
  refine ⟨1, le_rfl, ?_⟩
  rw [ceSteps_op (op := .attempt) rfl rfl]
  rfl

/-- A test that does not hold is passed. -/
theorem ceSteps_passFail {p : Prog} {n pos : Nat} {r : State} {c : Cond} {e : Err}
    (hop : p.code[pos]? = some (.failIf c e)) (hc : c.holds { f with pos := pos } (r.goto f pos) = false) :
    ceSteps p (n + 1) (r.goto f pos) = ceSteps p n (r.goto f (pos + 1)) := by
  rw [ceSteps_op rfl hop, runOp_failIf, if_neg (by simp [hc])]
  rfl

/-- A test that holds goes to the handler. -/
theorem ceSteps_failIf {p : Prog} {n pos : Nat} {r : State} {c : Cond} {e : Err}
    (hop : p.code[pos]? = some (.failIf c e)) (hc : c.holds { f with pos := pos } (r.goto f pos) = true) :
    ceSteps p (n + 1) (r.goto f pos) = ceSteps p n (r.goto { f with outcome := some e } p.main.length) := by
  rw [ceSteps_op rfl hop, runOp_failIf, if_pos hc]
  rfl

/-- Both frames of an attempt succeed. -/
theorem reaches_attemptFrames (hcs : bus.cs = false) (hwrite : frameOk s.world taken = true)
    (hread : frameOk s.world (taken + 2) = true) :
    Reaches (fccSelfTestProg s.params m) 9 ((s.reached taken events bus).goto f 2)
      ((s.reached (taken + attemptTaken s.world taken) (events ++ attemptEvents s.world s.params taken) bus).goto
        (f.attempted s.world taken) 11) := by
  have h := ((reaches_attempt s m taken events bus f).trans (reaches_writeFrame (reg := s.params.regTest)
    (tx := .byte s.params.testPattern) rfl hcs hwrite)).trans (reaches_readFrame
      (reg := s.params.regTest) (slot := .v) rfl hcs hread)
  rw [List.append_assoc] at h
  rw [attemptTaken, attemptEvents, if_pos hwrite, if_pos hwrite, frameTaken_of_ok hread, writeFrameTried,
    readFrameTried, frameTried_of_ok hwrite, frameTried_of_ok hread]
  exact h

/-- An attempt of which a frame fails. -/
theorem reaches_attempt_cut (hcs : bus.cs = false)
    (hfail : (frameOk s.world taken && frameOk s.world (taken + 2)) = false) :
    Reaches (fccSelfTestProg s.params m) 9 ((s.reached taken events bus).goto f 2)
      ((s.reached (taken + attemptTaken s.world taken) (events ++ attemptEvents s.world s.params taken) bus).goto
        { f with a := saturatingSucc f.a, outcome := some .ioFailure } 14) := by
  rw [attemptTaken, attemptEvents]
  cases hwrite : frameOk s.world taken with
  | false =>
    have hle := frameTaken_le s.world taken
    rw [if_neg Bool.false_ne_true, if_neg Bool.false_ne_true, List.append_nil]
    exact ((reaches_attempt s m taken events bus f).trans (reaches_frame_failed
      (addr := fccWriteAddress s.params.regTest) (tx := .byte s.params.testPattern) rfl rfl hcs hwrite)).mono (by omega)
  | true =>
    have hread : frameOk s.world (taken + 2) = false := by simpa [hwrite] using hfail
    have hle := frameTaken_le s.world (taken + 2)
    have h := (((reaches_attempt s m taken events bus f).trans (reaches_writeFrame (reg := s.params.regTest)
      (tx := .byte s.params.testPattern) rfl hcs hwrite)).trans (reaches_frame_failed
        (addr := fccReadAddress s.params.regTest) (tx := .byte Config.sbDummy) rfl rfl hcs hread)).mono (l := 9)
          (by omega)
    rw [List.append_assoc, Nat.add_assoc] at h
    rw [if_pos rfl, if_pos rfl, writeFrameTried, frameTried_of_ok hwrite]
    exact h

theorem attemptOutcome_of_cut {x : World} {q : Params}
    (h : (frameOk x taken && frameOk x (taken + 2)) = false) : attemptOutcome x q taken = some .ioFailure := by
  rw [attemptOutcome, if_neg (by simp [h])]

theorem attemptOutcome_of_ok {x : World} {q : Params} (h : (frameOk x taken && frameOk x (taken + 2)) = true) :
    attemptOutcome x q taken = if x.byteAt (taken + 3) = q.testPattern then none else some .protocolMismatch :=
  if_pos h

/-- An attempt that reads the pattern completes the command. -/
theorem reaches_attempt_passed (hcs : s.bus.cs = false) (ha : f.a = attemptCount count)
    (hpass : attemptOutcome s.world s.params taken = none) :
    Reaches (fccSelfTestProg s.params m) 11 ((s.reached taken events s.bus).goto f 2)
      (s.completed (taken + attemptTaken s.world taken) (events ++ attemptEvents s.world s.params taken) none
        (attemptCount (count + 1))) := by
  cases hok : frameOk s.world taken && frameOk s.world (taken + 2) with
  | false => simp [attemptOutcome_of_cut hok] at hpass
  | true =>
    obtain ⟨hwrite, hread⟩ := Bool.and_eq_true_iff.1 hok
    have hpattern : s.world.byteAt (taken + 3) = s.params.testPattern := by
      simpa [attemptOutcome_of_ok hok] using hpass
    refine (reaches_attemptFrames hcs hwrite hread).trans ⟨2, le_rfl, ?_⟩
    rw [ceSteps_passFail (c := .not (.received s.params.testPattern)) (e := .protocolMismatch) rfl
      (by simp [Flight.attempted, hpattern]), ceSteps_complete (x := .a) rfl, ← saturatingSucc_attemptCount, ← ha]
    rfl

/-- A failed attempt is in the handler behind the release, with its outcome. -/
theorem reaches_attempt_failed {e : Err} (hcs : bus.cs = false) (ha : f.a = attemptCount count)
    (hfail : attemptOutcome s.world s.params taken = some e) :
    ∃ g : Flight, g.a = attemptCount (count + 1) ∧ g.outcome = some e ∧
      Reaches (fccSelfTestProg s.params m) 11 ((s.reached taken events bus).goto f 2)
        ((s.reached (taken + attemptTaken s.world taken) (events ++ attemptEvents s.world s.params taken) bus).goto g
          14) := by
  have ha' : saturatingSucc f.a = attemptCount (count + 1) := by rw [ha, saturatingSucc_attemptCount]
  cases hok : frameOk s.world taken && frameOk s.world (taken + 2) with
  | false =>
    rw [attemptOutcome_of_cut hok] at hfail
    exact ⟨_, ha', hfail, (reaches_attempt_cut hcs hok).mono (by decide)⟩
  | true =>
    obtain ⟨hwrite, hread⟩ := Bool.and_eq_true_iff.1 hok
    rw [attemptOutcome_of_ok hok] at hfail
    split at hfail
    · cases hfail
    next hpattern =>
      refine ⟨{ f.attempted s.world taken with outcome := some .protocolMismatch }, ha', hfail,
        (reaches_attemptFrames hcs hwrite hread).trans ⟨2, le_rfl, ?_⟩⟩
      rw [ceSteps_failIf (c := .not (.received s.params.testPattern)) (e := .protocolMismatch) rfl
        (by simpa [Flight.attempted] using hpattern), ceSteps_csRelease rfl, if_neg (by simp [hcs]), List.append_nil,
        BusState.deselected hcs]
      rfl

/-- Behind the release the outcome ends the command where the attempts are spent (R212). -/
theorem reaches_giveUp {e : Err} {g : Flight} (ha : g.a = attemptCount (count + 1)) (he : g.outcome = some e)
    (hspent : m.toNat = count + 1) :
    Reaches (fccSelfTestProg s.params m) 2 ((s.reached taken events s.bus).goto g 14)
      (s.completed taken events (some e) (zext32 m)) := by
  refine ⟨2, le_rfl, ?_⟩
  rw [ceSteps_noSkip (c := .not (.attemptsSpent m)) (count := 1) rfl
      (congrArg not (attemptsSpent_eq_true (f := { g with pos := 14 }) ha hspent)),
    ceSteps_op (op := .reraise) rfl rfl, runOp_reraise, he, ← attemptCount_of_toNat_eq hspent, ← ha]
  rfl

/-- Behind the release a next attempt follows where the attempts are not spent (R212). -/
theorem reaches_retry {g : Flight} (ha : g.a = attemptCount count) (hleft : m = 0#16 ∨ count < m.toNat) :
    Reaches (fccSelfTestProg s.params m) 3 ((s.reached taken events bus).goto g 14)
      ((s.reached taken (events ++ [.delay .retry]) bus).goto g 2) := by
  refine ⟨3, le_rfl, ?_⟩
  rw [ceSteps_skip (c := .not (.attemptsSpent m)) (count := 1) rfl
      (congrArg not (attemptsSpent_eq_false (f := { g with pos := 14 }) ha hleft)),
    ceSteps_delay (t := .retry) rfl, ceSteps_back (count := 15) rfl]
  rfl

/-! ## The failed attempts before the last -/

theorem retriedEvents_succ (x : World) (q : Params) (count : Nat) :
    retriedEvents x q (count + 1) =
      retriedEvents x q count ++ attemptEvents x q (attemptStart x count) ++ [.delay .retry] := by
  simp [retriedEvents, List.range_succ, List.flatMap_append]

/-- After `count` failed attempts the command is at the next one. -/
theorem reaches_attempts (hcs : bus.cs = false) (hf : f.a = attemptCount 0) (hleft : m = 0#16 ∨ count < m.toNat)
    (hfail : ∀ j < count, attemptOutcome s.world s.params (attemptStart s.world j) ≠ none) :
    ∃ g : Flight, g.a = attemptCount count ∧
      Reaches (fccSelfTestProg s.params m) (14 * count) ((s.reached 0 [] bus).goto f 2)
        ((s.reached (attemptStart s.world count) (retriedEvents s.world s.params count) bus).goto g 2) := by
  induction count with
  | zero => exact ⟨f, hf, .refl⟩
  | succ count ih =>
    obtain ⟨g, hg, hreach⟩ := ih (hleft.imp_right (by omega)) fun j hj => hfail j (by omega)
    obtain ⟨e, he⟩ := Option.ne_none_iff_exists'.1 (hfail count (by omega))
    obtain ⟨g', hg', -, hfailed⟩ := reaches_attempt_failed (m := m)
      (events := retriedEvents s.world s.params count) hcs hg he
    refine ⟨g', hg', ?_⟩
    rw [retriedEvents_succ]
    exact ((hreach.trans hfailed).trans (reaches_retry hg' hleft)).mono (by omega)

/-- Settles O24: `k` failed attempts, then one that reads the pattern. -/
theorem selfTestPassesAfterMismatches : Obligations.SelfTestPassesAfterMismatches := by
  intro m k s h hup hcs hleft hfail hpass
  obtain ⟨g, hg, hreach⟩ := reaches_attempts (m := m) (f := Flight.start (encode (.fccSelfTest m))) hcs rfl hleft hfail
  exact exec_of_ready ⟨rfl, hup, hcs, rfl⟩ rfl h (hreach.trans (reaches_attempt_passed hcs hg hpass)) rfl
    (by rw [fccGuards_length_selfTest]; omega)

/-- Settles O25: `k` failed attempts, then one whose outcome the handler reports. -/
theorem selfTestGivesUp : Obligations.SelfTestGivesUp := by
  intro m k s h hup hcs hspent hfail
  obtain ⟨g, hg, hreach⟩ := reaches_attempts (m := m) (f := Flight.start (encode (.fccSelfTest m))) (count := k) hcs rfl
    (.inr (by omega)) fun j hj => hfail j (by omega)
  obtain ⟨e, he⟩ := Option.ne_none_iff_exists'.1 (hfail k le_rfl)
  obtain ⟨g', hg', hout, hlast⟩ := reaches_attempt_failed (m := m) (events := retriedEvents s.world s.params k) hcs hg
    he
  rw [he]
  exact exec_of_ready ⟨rfl, hup, hcs, rfl⟩ rfl h ((hreach.trans hlast).trans (reaches_giveUp hg' hout hspent)) rfl
    (by rw [fccGuards_length_selfTest]; omega)

end

/-! ## The first frame (R211, R213) -/

theorem firstTransfer_frame (q : Params) {i : Instr} (hi : isFcc i = true) (hne : ∀ m, i ≠ .fccSelfTest m) :
    (progOf q i).Releases ∧ ∃ tx slot rest,
      (progOf q i).code.drop (fccGuards i).length = frameOps (firstTransfer q i) tx slot ++ rest := by
  cases i with
  | fccSelfTest m => exact absurd rfl (hne m)
  | fccFlush | fccTrigger | fccPollDone | fccReadLen | fccBurstRead | fccSingleCapture | fccWriteReg | fccReadReg
  | fccSetBit | fccClrBit | fccGetBit => exact ⟨⟨rfl, rfl⟩, _, _, _, rfl⟩
  | _ => cases hi

/-- Which events and answers a self-test's attempt has whose answer number `j` is the first that fails. -/
theorem attempt_of_firstFailure {x : World} {q : Params} {j : Nat} (hj : j < 4) (hok : x.answersOk j)
    (hfail : (x.answerAt j).isOk = false) :
    (frameOk x 0 && frameOk x (0 + 2)) = false ∧ attemptTaken x 0 = j + 1 ∧
      attemptEvents x q 0 = if j < 2 then writeFrameTried x q.regTest q.testPattern 0
        else writeFrameAt x q.regTest q.testPattern 0 ++ readFrameTried x q.regTest 2 := by
  match j with
  | 0 =>
    have hwrite : frameOk x 0 = false := by simp [frameOk, hfail]
    simp [attemptTaken, attemptEvents, hwrite, frameTaken, hfail]
  | 1 =>
    have hfirst : (x.answerAt 0).isOk = true := hok 0 (by decide)
    have hwrite : frameOk x 0 = false := by simp [frameOk, hfail]
    simp [attemptTaken, attemptEvents, hwrite, frameTaken, hfirst]
  | 2 =>
    have hwrite : frameOk x 0 = true := hok.frameOk le_rfl
    have hread : frameOk x 2 = false := by simp [frameOk, hfail]
    simp [attemptTaken, attemptEvents, hwrite, hread, frameTaken, hfail, writeFrameTried, frameTried_of_ok hwrite]
    rfl
  | 3 =>
    have hwrite : frameOk x 0 = true := hok.frameOk (by decide)
    have hthird : (x.answerAt 2).isOk = true := hok 2 (by decide)
    have hread : frameOk x 2 = false := by simp [frameOk, hfail]
    simp [attemptTaken, attemptEvents, hwrite, hread, frameTaken, hthird, writeFrameTried, frameTried_of_ok hwrite]
    rfl

/-- Settles O35: the first frame of a command; of a self-test the only attempt. -/
theorem fccFirstTransferFailure : Obligations.FccFirstTransferFailure := by
  refine ⟨fun i s hi hne h hcap hup hcs hfst hfail => ?other, fun s h hup hcs j hj hok hfail => ?selfTest⟩
  case other =>
    obtain ⟨hp, tx, slot, rest, hcode⟩ := firstTransfer_frame s.params hi hne
    have hframe : frameOk s.world 0 = false := by simp [frameOk, hfail]
    have hended := reaches_frame_ended (f := Flight.start (encode i)) (events := []) (s := s) hp hcode hcs hframe
    rw [frameTaken, frameTried, if_neg (by simp [hfail]), if_neg (by simp [hfail])] at hended
    have hle := fccGuards_length_le i
    exact exec_of_ready ⟨hcap, hup, hcs, hfst⟩ hi h hended rfl (by omega)
  case selfTest =>
    obtain ⟨hcut, htaken, hevents⟩ := attempt_of_firstFailure (q := s.params) hj hok hfail
    have hattempt := reaches_attempt_cut (m := 1#16) (events := []) (f := Flight.start (encode (.fccSelfTest 1#16))) hcs
      hcut
    rw [htaken, hevents, Nat.zero_add, List.nil_append] at hattempt
    exact exec_of_ready ⟨rfl, hup, hcs, rfl⟩ rfl h
      (hattempt.trans (reaches_giveUp (count := 0) rfl rfl rfl)) rfl

end Sys2Proof.Machine

/-! # The burst frame (42_fifo_capture.md R228, R118, R231)

FCC_BURSTREAD and FCC_SINGLECAPTURE end with the same operations (`burstReadOps`): the length reads, the overflow test
and the burst frame, whose loop stores one byte in each lap. -/

namespace Sys2Proof.Machine

/-! ## What a burst stores -/

section
variable {x : World} {d k count a : Nat} {m : Memory}

theorem storeBurst_succ : storeBurst x d m k (count + 1) =
    (storeBurst x d m k count).set (k + count) (x.byteAt (d + (k + count))) := by
  induction count generalizing m k with
  | zero => rfl
  | succ count ih =>
    rw [storeBurst, ih, Nat.add_right_comm k 1 count]
    rfl

theorem burstData_succ : burstData x d k (count + 1) = burstData x d k count ++
    [sent Config.sbDummy (x.byteAt (d + (k + count))), .bufWrite (k + count) (x.byteAt (d + (k + count)))] := by
  induction count generalizing k with
  | zero => rfl
  | succ count ih =>
    rw [burstData, ih, Nat.add_right_comm k 1 count]
    rfl

theorem get?_storeBurst_of_lt (ha : a < count) :
    Memory.get? (storeBurst x d m 0 count) a = some (x.byteAt (d + a)) := by
  induction count with
  | zero => omega
  | succ count ih =>
    rw [storeBurst_succ, Nat.zero_add]
    by_cases hlast : a = count
    · rw [hlast, Memory.get?_set_same]
    · rw [Memory.get?_set_other _ _ _ _ hlast, ih (by omega)]

theorem get?_storeBurst_of_le (ha : count ≤ a) : Memory.get? (storeBurst x d m 0 count) a = Memory.get? m a := by
  induction count with
  | zero => rfl
  | succ count ih => rw [storeBurst_succ, Nat.zero_add, Memory.get?_set_other _ _ _ _ (by omega), ih (by omega)]

end

/-- The bytes of BUF where a burst of `count` bytes has been stored. -/
theorem bufByte_of_storeBurst {s t : State} {d count : Nat} (hbuf : t.buf = storeBurst s.world d s.buf 0 count)
    (hepoch : t.world.epoch = s.world.epoch) :
    (∀ k < count, t.bufByte k = s.world.byteAt (d + k)) ∧ ∀ k, count ≤ k → t.bufByte k = s.bufByte k := by
  refine ⟨fun k hk => ?_, fun k hk => ?_⟩
  · rw [State.bufByte, hbuf, get?_storeBurst_of_lt hk, Option.getD_some]
  · rw [State.bufByte, hbuf, get?_storeBurst_of_le hk, hepoch, State.bufByte]

/-- The state in which a burst has stored `count` bytes, its answers from number `d` on. -/
def State.bursting (s : State) (d count : Nat) : State :=
  { s with buf := storeBurst s.world d s.buf 0 count, bufLen := 0#24 }

@[simp] theorem State.bursting_world (s : State) (d count : Nat) : (s.bursting d count).world = s.world := rfl

theorem State.bursting_succ (s : State) (d count : Nat) : s.bursting d (count + 1) =
    { s.bursting d count with buf := (s.bursting d count).buf.set count (s.world.byteAt (d + count)) } := by
  rw [State.bursting, storeBurst_succ, Nat.zero_add]
  rfl

/-! ## The loop -/

/-- The loop of a burst frame (R228). -/
def burstLoopOps : List Op :=
  [.skipIf (.not .moreBytes) 3, .xfer (.byte Config.sbDummy) .v, .storeByte, .back 3]

section
variable {p : Prog} {n pos taken d count : Nat} {s : State} {f : Flight} {events : List Event} {bus : BusState}
  {rest : List Op} {q : Params} {cap : BitVec 24}

theorem ceSteps_storeByte (hop : p.code[pos]? = some .storeByte) (hk : f.k < s.params.bufBytes) :
    ceSteps p (n + 1) ((s.reached taken events bus).goto f pos) =
      ceSteps p n ((({ s with buf := s.buf.set f.k f.v } : State).reached taken (events ++ [.bufWrite f.k f.v])
        bus).goto { f with k := f.k + 1 } (pos + 1)) := by
  rw [ceSteps_op rfl hop, runOp_storeByte, State.ceWriteBuf, if_pos (by exact hk), ← State.reached_record]
  rfl

/-- One lap of the loop stores one byte. -/
theorem reaches_burstByte (hcode : p.code.drop pos = burstLoopOps ++ rest) (hk : f.k = count)
    (hmore : count < f.len.toNat) (hroom : count < s.params.bufBytes)
    (hok : (s.world.answerAt (d + count)).isOk = true) :
    Reaches p 4 (((s.bursting d count).reached (d + count) (events ++ burstData s.world d 0 count) bus).goto f pos)
      (((s.bursting d (count + 1)).reached (d + (count + 1)) (events ++ burstData s.world d 0 (count + 1)) bus).goto
        { f with v := s.world.byteAt (d + count), k := count + 1 } pos) := by
  subst hk
  refine ⟨4, le_rfl, ?_⟩
  rw [ceSteps_noSkip (code_getElem?_head_of_drop hcode) (by simpa using hmore),
    ceSteps_xfer (s := s.bursting d f.k) (code_getElem?_of_drop hcode 1) hok, State.bursting_world,
    ceSteps_storeByte (s := s.bursting d f.k) (f := f.keep (s.world.byteAt (d + f.k)) .v)
      (code_getElem?_of_drop hcode 2) hroom,
    ceSteps_back (code_getElem?_of_drop hcode 3), State.bursting_succ, burstData_succ,
    Nat.zero_add, List.append_assoc, List.append_assoc, Nat.add_sub_cancel]
  rfl

/-- `count` laps of the loop store `count` bytes. -/
theorem reaches_burstBytes (hcode : p.code.drop pos = burstLoopOps ++ rest) (hk : f.k = 0)
    (hlen : count ≤ f.len.toNat) (hroom : count ≤ s.params.bufBytes) (hok : s.world.answersOk (d + count)) :
    ∃ g : Flight, g.k = count ∧ g.len = f.len ∧
      Reaches p (4 * count) (((s.bursting d 0).reached d events bus).goto f pos)
        (((s.bursting d count).reached (d + count) (events ++ burstData s.world d 0 count) bus).goto g pos) := by
  induction count with
  | zero =>
    refine ⟨f, hk, rfl, ?_⟩
    rw [burstData, List.append_nil]
    exact .refl
  | succ count ih =>
    obtain ⟨g, hgk, hglen, hreach⟩ := ih (by omega) (by omega) (hok.mono (by omega))
    exact ⟨{ g with v := s.world.byteAt (d + count), k := count + 1 }, rfl, hglen,
      hreach.trans (reaches_burstByte hcode hgk (by rw [hglen]; omega) (by omega) (hok (d + count) (by omega)))⟩

/-! ## The length and the overflow test -/

/-- The locals behind the assembled length. -/
def Flight.measured (f : Flight) (x : World) (d : Nat) : Flight :=
  { f.withLengthBytes x d with len := lengthAt x d }

/-- The operations behind the length reads. -/
def measuredOps (q : Params) (cap : BitVec 24) : List Op :=
  [.assembleLength, .raiseIf (.lengthOver cap) .bufferOverflow] ++ burstFrameOps q ++ [.complete .len]

theorem burstReadOps_eq : burstReadOps q cap = readLengthOps q ++ measuredOps q cap := rfl

theorem reaches_measured (hcode : p.code.drop pos = burstReadOps q cap ++ rest) (hcs : bus.cs = false)
    (hok : lengthOk s.world taken = true) :
    Reaches p 13 ((s.reached taken events bus).goto f pos)
      ((s.reached (taken + 6) (events ++ lengthFramesAt s.world q taken) bus).goto (f.measured s.world taken)
        (pos + 13)) := by
  rw [burstReadOps_eq, List.append_assoc] at hcode
  refine (reaches_length hcode hcs hok).trans ⟨1, le_rfl, ?_⟩
  have hassemble : p.code[pos + 12]? = some .assembleLength :=
    code_getElem?_head_of_drop (code_drop_of_append hcode)
  rw [ceSteps_op rfl hassemble]
  rfl

/-- A length over the capacity ends the command before the burst frame (R228). -/
theorem reaches_overflow (hp : p.Releases) (hcode : p.code.drop pos = burstReadOps q cap ++ rest)
    (hcs : s.bus.cs = false) (hok : lengthOk s.world taken = true)
    (hover : cap.toNat < (lengthAt s.world taken).toNat) :
    Reaches p 14 ((s.reached taken events s.bus).goto f pos)
      (s.completedFree (taken + 6) (events ++ lengthFramesAt s.world q taken) .bufferOverflow) := by
  refine (reaches_measured hcode hcs hok).trans ⟨1, le_rfl, ?_⟩
  exact ceSteps_raise (code_getElem?_of_drop hcode 13) hp.errResult (decide_eq_true hover)

/-- A length that fits is followed by the start of the burst frame. -/
theorem reaches_burstStart (hcode : p.code.drop pos = burstReadOps q cap ++ rest) (hcs : bus.cs = false)
    (hok : lengthOk s.world taken = true) (hfits : (lengthAt s.world taken).toNat ≤ cap.toNat) :
    Reaches p 16 ((s.reached taken events bus).goto f pos)
      (((s.bursting (taken + 7) 0).reached (taken + 6) (events ++ lengthFramesAt s.world q taken ++ [.sbCs true])
        { bus with cs := true }).goto { f.measured s.world taken with k := 0 } (pos + 16)) := by
  refine (reaches_measured hcode hcs hok).trans ⟨3, le_rfl, ?_⟩
  rw [ceSteps_passCheck (code_getElem?_of_drop hcode 13) (decide_eq_false (by simpa [Flight.measured] using hfits)),
    ceSteps_op rfl (code_getElem?_of_drop hcode 14), runOp_startBuffer]
  exact ceSteps_cs (s := s.bursting (taken + 7) 0) (code_getElem?_of_drop hcode 15)

/-- A burst frame up to its byte number `count`. -/
theorem reaches_burst_stored (hcode : p.code.drop pos = burstReadOps q cap ++ rest) (hcs : bus.cs = false)
    (hok : s.world.answersOk (taken + 7 + count)) (hcount : count ≤ (lengthAt s.world taken).toNat)
    (hfits : (lengthAt s.world taken).toNat ≤ cap.toNat) (hcap : cap.toNat ≤ s.params.bufBytes) :
    ∃ g : Flight, g.k = count ∧ g.len = lengthAt s.world taken ∧
      Reaches p (17 + 4 * count) ((s.reached taken events bus).goto f pos)
        (((s.bursting (taken + 7) count).reached (taken + 7 + count)
          (events ++ lengthFramesAt s.world q taken ++
            ([.sbCs true, sent q.burstCmd (s.world.byteAt (taken + 6))] ++ burstData s.world (taken + 7) 0 count))
          { bus with cs := true }).goto g (pos + 17)) := by
  have hstart := reaches_burstStart (f := f) (events := events) hcode hcs (hok.lengthOk (d := taken) (by omega)) hfits
  have hcontrol := hstart.trans ⟨1, le_rfl, ceSteps_xfer (n := 0) (code_getElem?_of_drop hcode 16)
    (hok (taken + 6) (by omega))⟩
  have hloop : p.code.drop (pos + 17) = burstLoopOps ++ ([.cs false, .setBufLen, .complete .len] ++ rest) :=
    code_drop_of_append (ops := readLengthOps q ++ [.assembleLength, .raiseIf (.lengthOver cap) .bufferOverflow,
      .startBuffer, .cs true, .xfer (.byte q.burstCmd) .discard]) hcode
  obtain ⟨g, hgk, hglen, hbytes⟩ := reaches_burstBytes (s := s) (d := taken + 7)
    (f := { f.measured s.world taken with k := 0 })
    hloop rfl hcount (by omega) hok
  refine ⟨g, hgk, hglen, ?_⟩
  have h := hcontrol.trans hbytes
  simp only [List.append_assoc] at h ⊢
  exact h

theorem ceSteps_setBufLen (hop : p.code[pos]? = some .setBufLen) :
    ceSteps p (n + 1) ((s.reached taken events bus).goto f pos) =
      ceSteps p n ((({ s with bufLen := f.len.setWidth 24 } : State).reached taken events bus).goto f (pos + 1)) := by
  rw [ceSteps_op rfl hop]
  rfl

/-- The length reads and the burst frame, up to the end of the command. -/
theorem reaches_burst {len : BitVec 23} (hlen : len = lengthAt s.world taken)
    (hcode : p.code.drop pos = burstReadOps q cap ++ rest) (hcs : s.bus.cs = false)
    (hok : s.world.answersOk (taken + 7 + len.toNat)) (hfits : len.toNat ≤ cap.toNat)
    (hcap : cap.toNat ≤ s.params.bufBytes) :
    Reaches p (21 + 4 * len.toNat) ((s.reached taken events s.bus).goto f pos)
      { s.completed (taken + 7 + len.toNat) (events ++ lengthFramesAt s.world q taken ++
          burstFrameAt s.world q (taken + 6) len.toNat) none (zext32 len) with
        buf := storeBurst s.world (taken + 7) s.buf 0 len.toNat
        bufLen := len.setWidth 24 } := by
  subst hlen
  obtain ⟨g, hgk, hglen, hstored⟩ := reaches_burst_stored (f := f) (events := events) hcode hcs hok le_rfl hfits hcap
  refine (hstored.trans (l := 4) ⟨4, le_rfl, ?_⟩).mono (by omega)
  rw [ceSteps_skip (code_getElem?_of_drop hcode 17) (by simp [hgk, hglen]), ceSteps_cs (code_getElem?_of_drop hcode 21),
    ceSteps_setBufLen (code_getElem?_of_drop hcode 22), ceSteps_complete (code_getElem?_of_drop hcode 23)]
  simp only [hglen, burstFrameAt, List.append_assoc, BusState.deselected hcs]
  rfl

/-- A failed transfer inside a frame ends the command behind the release of chip select (R211). -/
theorem reaches_xfer_ended {tx : Tx} {slot : Slot} (hp : p.Releases) (hop : p.code[pos]? = some (.xfer tx slot))
    (hfail : (s.world.answerAt taken).isOk = false) (hcs : s.bus.cs = false) :
    Reaches p 3 ((s.reached taken events { s.bus with cs := true }).goto f pos)
      (s.completedFree (taken + 1) (events ++ [failedTransfer (tx.value f), .sbCs false]) .ioFailure) := by
  have hreleased : Reaches p 2 ((s.reached taken events { s.bus with cs := true }).goto f pos)
      ((s.reached (taken + 1) (events ++ [failedTransfer (tx.value f), .sbCs false]) s.bus).goto
        { f with outcome := some .ioFailure } (p.main.length + 1)) := by
    refine ⟨2, le_rfl, ?_⟩
    rw [ceSteps_xfer_released (hp.getElem? 0) hop hfail rfl]
    simp only [BusState.deselected hcs]
    rfl
  exact hreleased.trans (reaches_reraise hp)

/-- A burst frame whose transfer number `m` fails (R231). -/
theorem reaches_burst_cut {m : Nat} (hp : p.Releases) (hcode : p.code.drop pos = burstReadOps q cap ++ rest)
    (hcs : s.bus.cs = false) (hok : s.world.answersOk (taken + 6 + m))
    (hfail : (s.world.answerAt (taken + 6 + m)).isOk = false) (hm : m ≤ (lengthAt s.world taken).toNat)
    (hfits : (lengthAt s.world taken).toNat ≤ cap.toNat) (hcap : cap.toNat ≤ s.params.bufBytes) :
    Reaches p (19 + 4 * m) ((s.reached taken events s.bus).goto f pos)
      ((s.bursting (taken + 7) (m - 1)).completedFree (taken + 7 + m)
        (events ++ lengthFramesAt s.world q taken ++ burstFrameCut s.world q (taken + 6) m) .ioFailure) := by
  cases m with
  | zero =>
    have h := (reaches_burstStart (f := f) (events := events) hcode hcs
      (hok.lengthOk (d := taken) (by omega)) hfits).trans
      (reaches_xfer_ended (s := s.bursting (taken + 7) 0) hp (code_getElem?_of_drop hcode 16) hfail hcs)
    simp only [List.append_assoc] at h ⊢
    exact h
  | succ k =>
    obtain ⟨g, hgk, hglen, hstored⟩ := reaches_burst_stored (f := f) (events := events) (count := k) hcode hcs
      (hok.mono (by omega)) (by omega) hfits hcap
    have htaken : taken + 6 + (k + 1) = taken + 7 + k := by omega
    have hmore := hstored.trans ⟨1, le_rfl, ceSteps_noSkip (n := 0) (code_getElem?_of_drop hcode 17)
      (by simp [hgk, hglen]; omega)⟩
    have h := (hmore.trans (reaches_xfer_ended (s := s.bursting (taken + 7) k) hp (code_getElem?_of_drop hcode 18)
      (htaken ▸ hfail) hcs)).mono (l := 19 + 4 * (k + 1)) (by omega)
    simp only [burstFrameCut, List.append_assoc] at h ⊢
    exact h

end

end Sys2Proof.Machine

/-! # FCC_BURSTREAD and FCC_SINGLECAPTURE (42_fifo_capture.md R228 to R236)

FCC_SINGLECAPTURE comes to the operations of FCC_BURSTREAD behind the flush, the trigger and the polls; what it has then
sent and where FST then stands is said once for every stage. -/

namespace Sys2Proof.Machine

/-! ## FCC_BURSTREAD -/

section
variable {cap : BitVec 24} {s t : State} {k steps : Nat}

/-- FCC_BURSTREAD from behind its checks to its end. -/
theorem exec_burstRead (hup : s.bus.sbUp = true) (hcs : s.bus.cs = false) (hcap : cap.toNat ≤ s.params.bufBytes)
    (hfst : s.fst = .done) (hs : Starts (.fccBurstRead cap) steps s)
    (hr : Reaches (fccBurstReadProg s.params cap) k
      ((s.reached 0 [] s.bus).goto (Flight.start (encode (.fccBurstRead cap))) 4) t)
    (hc : t.ce = none) (hsteps : 4 + k ≤ steps) : exec (.fccBurstRead cap) s = .next t :=
  exec_of_ready ⟨decide_eq_true hcap, hup, hcs, beq_iff_eq.2 hfst⟩ rfl hs hr hc hsteps

theorem fccBurstRead_burstOps (q : Params) (cap : BitVec 24) :
    (fccBurstReadProg q cap).code.drop 4 = burstReadOps q cap ++ releaseHandler := rfl

/-- Settles O29: the end of the burst frame, and what BUF then holds. -/
theorem burstReadFillsBuffer : Obligations.BurstReadFillsBuffer := by
  intro cap s len h hcap hup hcs hfst hok hfits t
  exact ⟨exec_burstRead hup hcs hcap hfst h (reaches_burst (taken := 0) (events := []) (len := len) rfl
    (fccBurstRead_burstOps s.params cap) hcs (hok.mono (by omega)) hfits hcap) rfl (by omega),
    bufByte_of_storeBurst rfl (World.skipAnswers_epoch (7 + len.toNat) s.world.dropTurn)⟩

theorem exec_burstRead_overflow (hup : s.bus.sbUp = true) (hcs : s.bus.cs = false)
    (hcap : cap.toNat ≤ s.params.bufBytes) (hfst : s.fst = .done) (hs : Starts (.fccBurstRead cap) 18 s)
    (hok : s.world.answersOk 6) (hover : cap.toNat < (lengthAt s.world 0).toNat) :
    exec (.fccBurstRead cap) s = .next (s.completedFree 6 (lengthFramesAt s.world s.params 0) .bufferOverflow) :=
  exec_burstRead hup hcs hcap hfst hs (reaches_overflow (taken := 0) (events := []) ⟨rfl, rfl⟩
    (fccBurstRead_burstOps s.params cap) hcs (hok.lengthOk (d := 0) le_rfl) hover) rfl le_rfl

end

/-! ## FCC_SINGLECAPTURE up to the length reads (R236) -/

theorem pollEvents_zero (s : State) : pollEvents s 0 =
    writeFrameAt s.world s.params.regFifo s.params.fifoClearMask 0 ++
      writeFrameAt s.world s.params.regFifo s.params.fifoStartMask 2 := by
  simp [pollEvents, missedPolls]

theorem pollEvents_succ (s : State) (misses : Nat) : pollEvents s (misses + 1) =
    pollEvents s misses ++ readFrameAt s.world s.params.regTrig (4 + 2 * misses) ++ [.delay .poll] := by
  simp [pollEvents, missedPolls, List.range_succ, List.flatMap_append]

section
variable {s t : State} {cap : BitVec 24} {f : Flight} {misses k steps : Nat}

theorem fccSingleCapture_releases (q : Params) (cap : BitVec 24) : (fccSingleCaptureProg q cap).Releases := ⟨rfl, rfl⟩

theorem fccSingleCapture_burstOps (q : Params) (cap : BitVec 24) :
    (fccSingleCaptureProg q cap).code.drop 22 = burstReadOps q cap ++ releaseHandler := rfl

/-- Behind the flush (R216). -/
theorem reaches_flushed (hcs : s.bus.cs = false) (hflush : frameOk s.world 0 = true) :
    Reaches (fccSingleCaptureProg s.params cap) 5 ((s.reached 0 [] s.bus).goto f 4)
      ((({ s with fst := .idle } : State).reached 2
        (writeFrameAt s.world s.params.regFifo s.params.fifoClearMask 0) s.bus).goto f 9) :=
  (reaches_writeFrame (s := s) (pos := 4) (taken := 0) (events := []) (reg := s.params.regFifo)
    (tx := .byte s.params.fifoClearMask) rfl hcs hflush).trans ⟨1, le_rfl, ceSteps_setFst (n := 0) rfl⟩

/-- Behind the trigger (R218). -/
theorem reaches_triggered (hcs : s.bus.cs = false) (hok : s.world.answersOk 4) :
    Reaches (fccSingleCaptureProg s.params cap) 10 ((s.reached 0 [] s.bus).goto f 4)
      ((({ s with fst := .capturing } : State).reached 4 (pollEvents s 0) s.bus).goto f 14) := by
  rw [pollEvents_zero]
  exact ((reaches_flushed hcs (hok.frameOk (d := 0) (by decide))).trans
    (reaches_writeFrame (s := { s with fst := .idle }) (pos := 9) (taken := 2) (reg := s.params.regFifo)
      (tx := .byte s.params.fifoStartMask) rfl hcs (hok.frameOk (d := 2) le_rfl))).trans
        ⟨1, le_rfl, ceSteps_setFst (n := 0) rfl⟩

/-- A poll, in front of the test of the done bit. -/
theorem reaches_polled {taken : Nat} {events : List Event} (hcs : s.bus.cs = false)
    (hok : frameOk s.world taken = true) :
    Reaches (fccSingleCaptureProg s.params cap) 4 ((s.reached taken events s.bus).goto f 14)
      ((s.reached (taken + 2) (events ++ readFrameAt s.world s.params.regTrig taken) s.bus).goto
        { f with v := s.world.byteAt (taken + 1) } 18) :=
  reaches_readFrame (reg := s.params.regTrig) (slot := .v) rfl hcs hok

/-- `misses` polls that find the done bit clear. -/
theorem reaches_polls (hcs : s.bus.cs = false) (hok : s.world.answersOk (4 + 2 * misses))
    (hmiss : ∀ j < misses, s.world.byteAt (5 + 2 * j) &&& s.params.capDoneMask = 0#8) :
    ∃ g, Reaches (fccSingleCaptureProg s.params cap) (10 + 7 * misses) ((s.reached 0 [] s.bus).goto f 4)
      ((({ s with fst := .capturing } : State).reached (4 + 2 * misses) (pollEvents s misses) s.bus).goto g 14) := by
  induction misses with
  | zero => exact ⟨f, reaches_triggered hcs hok⟩
  | succ misses ih =>
    obtain ⟨g, hreach⟩ := ih (hok.mono (by omega)) fun j hj => hmiss j (by omega)
    have hclear : s.world.byteAt (4 + 2 * misses + 1) &&& s.params.capDoneMask = 0#8 := by
      rw [Nat.add_right_comm]
      exact hmiss misses (by omega)
    refine ⟨{ g with v := s.world.byteAt (4 + 2 * misses + 1) }, ?_⟩
    have hpoll := hreach.trans (reaches_polled (s := { s with fst := .capturing }) hcs (hok.frameOk (by omega)))
    refine (hpoll.trans (l := 3) ⟨3, le_rfl, ?_⟩).mono (by omega)
    rw [ceSteps_noSkip (c := .bitSet s.params.capDoneMask) (count := 2) rfl (by simpa using hclear),
      ceSteps_delay (t := .poll) rfl, ceSteps_back (count := 6) rfl, pollEvents_succ]
    rfl

/-- The poll behind them finds the done bit set: FST is Done, the length reads follow. -/
theorem reaches_captured (hcs : s.bus.cs = false) (hok : s.world.answersOk (6 + 2 * misses))
    (hmiss : ∀ j < misses, s.world.byteAt (5 + 2 * j) &&& s.params.capDoneMask = 0#8)
    (hset : s.world.byteAt (5 + 2 * misses) &&& s.params.capDoneMask ≠ 0#8) :
    ∃ g, Reaches (fccSingleCaptureProg s.params cap) (16 + 7 * misses) ((s.reached 0 [] s.bus).goto f 4)
      ((({ s with fst := .done } : State).reached (6 + 2 * misses)
        (pollEvents s misses ++ readFrameAt s.world s.params.regTrig (4 + 2 * misses)) s.bus).goto g 22) := by
  obtain ⟨g, hreach⟩ := reaches_polls (cap := cap) (f := f) hcs (hok.mono (by omega)) hmiss
  have hset' : s.world.byteAt (4 + 2 * misses + 1) &&& s.params.capDoneMask ≠ 0#8 := by
    rw [Nat.add_right_comm]
    exact hset
  have hpoll := hreach.trans (reaches_polled (s := { s with fst := .capturing }) hcs (hok.frameOk (by omega)))
  refine ⟨{ g with v := s.world.byteAt (4 + 2 * misses + 1) }, (hpoll.trans (l := 2) ⟨2, le_rfl, ?_⟩).mono (by omega)⟩
  rw [ceSteps_skip (c := .bitSet s.params.capDoneMask) (count := 2) rfl (by simpa using hset'), ceSteps_setFst rfl,
    show 6 + 2 * misses = 4 + 2 * misses + 2 by omega]
  rfl

/-- FCC_SINGLECAPTURE from behind its checks to its end. -/
theorem exec_singleCapture (hup : s.bus.sbUp = true) (hcs : s.bus.cs = false) (hcap : cap.toNat ≤ s.params.bufBytes)
    (hfst : s.fst ≠ .capturing) (hs : Starts (.fccSingleCapture cap) steps s)
    (hr : Reaches (fccSingleCaptureProg s.params cap) k
      ((s.reached 0 [] s.bus).goto (Flight.start (encode (.fccSingleCapture cap))) 4) t)
    (hc : t.ce = none) (hsteps : 4 + k ≤ steps) : exec (.fccSingleCapture cap) s = .next t :=
  exec_of_ready ⟨decide_eq_true hcap, hup, hcs, bne_iff_ne.2 hfst⟩ rfl hs hr hc hsteps

/-- Settles O31: behind the polls the operations of FCC_BURSTREAD. -/
theorem singleCaptureFillsBuffer : Obligations.SingleCaptureFillsBuffer := by
  intro cap misses s d len h hcap hup hcs hfst hok hmiss hset hfits
  obtain ⟨g, hcaptured⟩ := reaches_captured (cap := cap) (f := Flight.start (encode (.fccSingleCapture cap))) hcs
    (hok.mono (by omega)) hmiss hset
  exact exec_singleCapture hup hcs hcap hfst h (hcaptured.trans (reaches_burst (s := { s with fst := .done })
    (len := len) rfl (fccSingleCapture_burstOps s.params cap) hcs hok hfits hcap)) rfl (by omega)

theorem exec_singleCapture_overflow (hup : s.bus.sbUp = true) (hcs : s.bus.cs = false)
    (hcap : cap.toNat ≤ s.params.bufBytes) (hs : Starts (.fccSingleCapture cap) (34 + 7 * misses) s)
    (hfst : s.fst ≠ .capturing) (hok : s.world.answersOk (12 + 2 * misses))
    (hmiss : ∀ j < misses, s.world.byteAt (5 + 2 * j) &&& s.params.capDoneMask = 0#8)
    (hset : s.world.byteAt (5 + 2 * misses) &&& s.params.capDoneMask ≠ 0#8)
    (hover : cap.toNat < (lengthAt s.world (6 + 2 * misses)).toNat) :
    exec (.fccSingleCapture cap) s = .next
      { s.completedFree (12 + 2 * misses) (pollEvents s misses ++
          readFrameAt s.world s.params.regTrig (4 + 2 * misses) ++
          lengthFramesAt s.world s.params (6 + 2 * misses)) .bufferOverflow with fst := .done } := by
  obtain ⟨g, hcaptured⟩ := reaches_captured (cap := cap) (f := Flight.start (encode (.fccSingleCapture cap))) hcs
    (hok.mono (by omega)) hmiss hset
  rw [show 12 + 2 * misses = 6 + 2 * misses + 6 by omega]
  exact exec_singleCapture hup hcs hcap hfst hs (hcaptured.trans (reaches_overflow (s := { s with fst := .done })
    (fccSingleCapture_releases s.params cap) (fccSingleCapture_burstOps s.params cap) hcs
    (hok.lengthOk (d := 6 + 2 * misses) (by omega)) hover)) rfl (by omega)

/-- Settles O30: both commands stop at the overflow test. -/
theorem burstReadOverflow : Obligations.BurstReadOverflow := fun _ _ hcap hup hcs =>
  ⟨fun h hfst hok hover => exec_burstRead_overflow hup hcs hcap hfst h hok hover,
    fun _ h hfst hok hmiss hset hover => exec_singleCapture_overflow hup hcs hcap h hfst hok hmiss hset hover⟩

end

end Sys2Proof.Machine

/-! # What a failed transfer leaves of a capture (42_fifo_capture.md R213, R231, R236) -/

namespace Sys2Proof.Machine

section
variable {cap : BitVec 24} {s t : State} {f : Flight} {misses m steps : Nat}

/-! ## The frames before the burst frame -/

/-- A failed flush makes no transition (R213). -/
theorem reaches_flush_ended (hcs : s.bus.cs = false) (hfail : frameOk s.world 0 = false) :
    Reaches (fccSingleCaptureProg s.params cap) (3 + frameTaken s.world 0) ((s.reached 0 [] s.bus).goto f 4)
      (s.completedFree (frameTaken s.world 0)
        (writeFrameTried s.world s.params.regFifo s.params.fifoClearMask 0) .ioFailure) := by
  have h := reaches_frame_ended (s := s) (f := f) (taken := 0) (events := []) (pos := 4)
    (addr := fccWriteAddress s.params.regFifo) (tx := .byte s.params.fifoClearMask)
    (fccSingleCapture_releases s.params cap) rfl hcs hfail
  rw [Nat.zero_add, List.nil_append] at h
  exact h

/-- A failed trigger leaves FST Idle. -/
theorem reaches_trigger_ended (hcs : s.bus.cs = false) (hok : s.world.answersOk 2) (hfail : frameOk s.world 2 = false) :
    Reaches (fccSingleCaptureProg s.params cap) (5 + (3 + frameTaken s.world 2)) ((s.reached 0 [] s.bus).goto f 4)
      { s.completedFree (2 + frameTaken s.world 2) (writeFrameAt s.world s.params.regFifo s.params.fifoClearMask 0 ++
          writeFrameTried s.world s.params.regFifo s.params.fifoStartMask 2) .ioFailure with fst := .idle } :=
  (reaches_flushed hcs (hok.frameOk (d := 0) le_rfl)).trans
    (reaches_frame_ended (s := { s with fst := .idle }) (addr := fccWriteAddress s.params.regFifo)
      (tx := .byte s.params.fifoStartMask) (fccSingleCapture_releases s.params cap) rfl hcs hfail)

/-- A failed poll leaves FST Capturing. -/
theorem reaches_poll_ended (hcs : s.bus.cs = false) (hok : s.world.answersOk (4 + 2 * misses))
    (hmiss : ∀ j < misses, s.world.byteAt (5 + 2 * j) &&& s.params.capDoneMask = 0#8)
    (hfail : frameOk s.world (4 + 2 * misses) = false) :
    Reaches (fccSingleCaptureProg s.params cap) (10 + 7 * misses + (3 + frameTaken s.world (4 + 2 * misses)))
      ((s.reached 0 [] s.bus).goto f 4)
      { s.completedFree (4 + 2 * misses + frameTaken s.world (4 + 2 * misses)) (pollEvents s misses ++
          readFrameTried s.world s.params.regTrig (4 + 2 * misses)) .ioFailure with fst := .capturing } := by
  obtain ⟨g, hpolls⟩ := reaches_polls (cap := cap) (f := f) hcs hok hmiss
  exact hpolls.trans (reaches_frame_ended (s := { s with fst := .capturing })
    (addr := fccReadAddress s.params.regTrig) (tx := .byte Config.sbDummy) (fccSingleCapture_releases s.params cap) rfl
    hcs hfail)

/-- A failed length read leaves FST Done. -/
theorem reaches_captureLength_ended (hcs : s.bus.cs = false) (hok : s.world.answersOk (6 + 2 * misses))
    (hmiss : ∀ j < misses, s.world.byteAt (5 + 2 * j) &&& s.params.capDoneMask = 0#8)
    (hset : s.world.byteAt (5 + 2 * misses) &&& s.params.capDoneMask ≠ 0#8)
    (hfail : lengthOk s.world (6 + 2 * misses) = false) :
    Reaches (fccSingleCaptureProg s.params cap) (16 + 7 * misses + 13) ((s.reached 0 [] s.bus).goto f 4)
      { s.completedFree (6 + 2 * misses + lengthTaken s.world (6 + 2 * misses)) (pollEvents s misses ++
          readFrameAt s.world s.params.regTrig (4 + 2 * misses) ++
          lengthTried s.world s.params (6 + 2 * misses)) .ioFailure with fst := .done } := by
  obtain ⟨g, hcaptured⟩ := reaches_captured (cap := cap) (f := f) hcs hok hmiss hset
  have hcode : (fccSingleCaptureProg s.params cap).code.drop 22 = readLengthOps s.params ++
      (measuredOps s.params cap ++ releaseHandler) := by
    rw [fccSingleCapture_burstOps, burstReadOps_eq, List.append_assoc]
  exact hcaptured.trans (reaches_length_ended (s := { s with fst := .done }) (fccSingleCapture_releases s.params cap)
    hcode hcs hfail)

/-! ## The burst frame -/

theorem exec_burstRead_cut (hup : s.bus.sbUp = true) (hcs : s.bus.cs = false) (hcap : cap.toNat ≤ s.params.bufBytes)
    (hs : Starts (.fccBurstRead cap) (23 + 4 * m) s) (hfst : s.fst = .done) (hok : s.world.answersOk (6 + m))
    (hfail : (s.world.answerAt (6 + m)).isOk = false) (hm : m ≤ (lengthAt s.world 0).toNat)
    (hfits : (lengthAt s.world 0).toNat ≤ cap.toNat) :
    exec (.fccBurstRead cap) s = .next ((s.bursting 7 (m - 1)).completedFree (7 + m)
      (lengthFramesAt s.world s.params 0 ++ burstFrameCut s.world s.params 6 m) .ioFailure) :=
  exec_burstRead hup hcs hcap hfst hs (reaches_burst_cut (taken := 0) (events := []) ⟨rfl, rfl⟩
    (fccBurstRead_burstOps s.params cap) hcs hok hfail hm hfits hcap) rfl (by omega)

theorem exec_singleCapture_cut (hup : s.bus.sbUp = true) (hcs : s.bus.cs = false)
    (hcap : cap.toNat ≤ s.params.bufBytes) (hs : Starts (.fccSingleCapture cap) (39 + 7 * misses + 4 * m) s)
    (hfst : s.fst ≠ .capturing) (hmiss : ∀ j < misses, s.world.byteAt (5 + 2 * j) &&& s.params.capDoneMask = 0#8)
    (hset : s.world.byteAt (5 + 2 * misses) &&& s.params.capDoneMask ≠ 0#8)
    (hok : s.world.answersOk (12 + 2 * misses + m)) (hfail : (s.world.answerAt (12 + 2 * misses + m)).isOk = false)
    (hm : m ≤ (lengthAt s.world (6 + 2 * misses)).toNat)
    (hfits : (lengthAt s.world (6 + 2 * misses)).toNat ≤ cap.toNat) :
    exec (.fccSingleCapture cap) s = .next
      ((({ s with fst := .done } : State).bursting (13 + 2 * misses) (m - 1)).completedFree (13 + 2 * misses + m)
        (pollEvents s misses ++ readFrameAt s.world s.params.regTrig (4 + 2 * misses) ++
          lengthFramesAt s.world s.params (6 + 2 * misses) ++ burstFrameCut s.world s.params (12 + 2 * misses) m)
        .ioFailure) := by
  obtain ⟨g, hcaptured⟩ := reaches_captured (cap := cap) (f := Flight.start (encode (.fccSingleCapture cap))) hcs
    (hok.mono (by omega)) hmiss hset
  rw [show 12 + 2 * misses = 6 + 2 * misses + 6 by omega] at hok hfail ⊢
  rw [show 13 + 2 * misses = 6 + 2 * misses + 7 by omega]
  exact exec_singleCapture hup hcs hcap hfst hs (hcaptured.trans (reaches_burst_cut (s := { s with fst := .done })
    (fccSingleCapture_releases s.params cap) (fccSingleCapture_burstOps s.params cap) hcs hok hfail hm hfits hcap)) rfl
    (by omega)

end

/-- Settles O60: each stage of FCC_SINGLECAPTURE, then the burst frame of both commands. -/
theorem captureFailureStages : Obligations.CaptureFailureStages := by
  intro cap s hcap hup hcs
  refine ⟨fun misses h hfst hmiss => ⟨fun hfail => ?flush, fun hok hfail => ?trigger, fun hok hfail => ?poll,
    fun hok hset hfail => ?length⟩, fun m h hfst hok hfail hm hfits => ?burst,
    fun misses m h hfst hmiss hset hok hfail hm hfits => ?capture⟩
  case flush =>
    have hle := frameTaken_le s.world 0
    exact exec_singleCapture hup hcs hcap hfst h (reaches_flush_ended hcs hfail) rfl (by omega)
  case trigger =>
    have hle := frameTaken_le s.world 2
    exact exec_singleCapture hup hcs hcap hfst h (reaches_trigger_ended hcs hok hfail) rfl (by omega)
  case poll =>
    have hle := frameTaken_le s.world (4 + 2 * misses)
    exact exec_singleCapture hup hcs hcap hfst h (reaches_poll_ended hcs hok hmiss hfail) rfl (by omega)
  case length =>
    exact exec_singleCapture hup hcs hcap hfst h (reaches_captureLength_ended hcs hok hmiss hset hfail) rfl (by omega)
  case burst =>
    exact ⟨exec_burstRead_cut hup hcs hcap h hfst hok hfail hm hfits,
      bufByte_of_storeBurst rfl (World.skipAnswers_epoch (7 + m) s.world.dropTurn)⟩
  case capture =>
    exact ⟨exec_singleCapture_cut hup hcs hcap h hfst hmiss hset hok hfail hm hfits,
      bufByte_of_storeBurst rfl (World.skipAnswers_epoch (13 + 2 * misses + m) s.world.dropTurn)⟩

end Sys2Proof.Machine

/-! # The button (43_button.md R271 to R276, R280, R281)

One step of the sampler is one equation (`Button.sampleLevel_eq`) in three notions of its rule: the length of the run, the
acceptance of the level, and the latching of an edge. -/

namespace Sys2Proof.Machine

/-! ## The run, the acceptance and the edge (R271, R272, R274) -/

/-- The length of the run of `level` after one more sample of it: CNT counts up to 15 (R271). -/
def Button.runLength (b : Button) (level : Bool) : Nat :=
  if b.cand = some level then min (b.cnt.toNat + 1) 15 else 1

/-- A sample of `level` makes it the debounced level: its run is long enough and it is new (R271, R272). -/
abbrev Button.Accepts (b : Button) (c : Cfg) (level : Bool) : Prop :=
  c.debounce.toNat ≤ b.runLength level ∧ b.dlevel ≠ some level

/-- A sample of `level` latches an edge: it is accepted over an older level and the filter lets the edge pass (R273,
R274, R276). -/
abbrev Button.Latches (b : Button) (c : Cfg) (level : Bool) : Prop :=
  b.Accepts c level ∧ b.dlevel = some (!level) ∧ c.edge.accepts (!level) level = true

/-- The number of samples that accept a level, DBN with 0 acting as 1 (R272). -/
theorem Cfg.debounce_toNat (c : Cfg) : c.debounce.toNat = if c.dbn = 0#4 then 1 else c.dbn.toNat := by
  unfold Cfg.debounce
  split <;> rfl

theorem Cfg.debounce_pos (c : Cfg) : 0 < c.debounce.toNat := by
  rw [Cfg.debounce_toNat]
  split
  case isTrue => exact Nat.one_pos
  case isFalse hne => exact Nat.pos_of_ne_zero fun hzero => hne (BitVec.eq_of_toNat_eq hzero)

theorem Cfg.debounce_le (c : Cfg) : c.debounce.toNat ≤ 15 := Nat.le_of_lt_succ c.debounce.isLt

/-- The filter on a change to `level`, setting by setting (R274). -/
theorem Edge.accepts_not_iff (e : Edge) (level : Bool) :
    e.accepts (!level) level = true ↔ e = .any ∨ (e = .rising ∧ level = true) ∨ (e = .falling ∧ level = false) := by
  cases e <;> simp [Edge.accepts]

section
variable (b : Button) (c : Cfg) (level : Bool)

theorem Button.extendRun_cnt_toNat : (b.extendRun level).cnt.toNat = b.runLength level := by
  unfold Button.extendRun Button.runLength
  split
  case isFalse => rfl
  case isTrue =>
    dsimp only
    split
    case isTrue hmax => rw [hmax]; rfl
    case isFalse hmax => bv_omega

/-- One more sample writes the run only. -/
theorem Button.extendRun_eq :
    b.extendRun level = { b with cand := some level, cnt := (b.extendRun level).cnt } := by
  unfold Button.extendRun
  split
  case isTrue hcand => rw [← hcand]
  case isFalse => rfl

/-- An accepted level that is new: DLEVEL, and the edge where the filter lets it pass. -/
theorem Button.acceptLevel_eq (edge : Edge) (hnew : b.dlevel ≠ some level) :
    b.acceptLevel edge level =
      if b.dlevel = some (!level) ∧ edge.accepts (!level) level = true then
        { b with dlevel := some level, pend := true, plevel := level, bst := .pressed }
      else { b with dlevel := some level } := by
  unfold Button.acceptLevel
  split
  case h_1 hnone => rw [if_neg (by simp [hnone])]
  case h_2 old hold =>
    obtain rfl : old = !level := Bool.eq_not.2 fun heq => hnew (heq ▸ hold)
    simp only [hold, true_and]

/-- One sampler step on a valid sample (R271). -/
theorem Button.sampleLevel_eq :
    b.sampleLevel c level =
      { dlevel := if b.Accepts c level then some level else b.dlevel
        cand := some level
        cnt := (b.extendRun level).cnt
        pend := if b.Latches c level then true else b.pend
        plevel := if b.Latches c level then level else b.plevel
        bst := if b.Latches c level then .pressed else b.bst } := by
  have hdlevel : (b.extendRun level).dlevel = b.dlevel := by rw [Button.extendRun_eq]
  rw [Button.sampleLevel, Button.extendRun_cnt_toNat, hdlevel]
  by_cases haccepts : b.Accepts c level
  · rw [if_pos haccepts, Button.acceptLevel_eq _ _ _ (by rw [hdlevel]; exact haccepts.2), hdlevel, Button.extendRun_eq]
    by_cases hedge : b.dlevel = some (!level) ∧ c.edge.accepts (!level) level = true
    · have hlatches : b.Latches c level := ⟨haccepts, hedge⟩
      simp only [if_pos hedge, if_pos haccepts, if_pos hlatches]
    · have hlatches : ¬ b.Latches c level := fun h => hedge h.2
      simp only [if_neg hedge, if_pos haccepts, if_neg hlatches]
  · have hlatches : ¬ b.Latches c level := fun h => haccepts h.1
    rw [if_neg haccepts, Button.extendRun_eq]
    simp only [if_neg haccepts, if_neg hlatches]

end

/-- An invalid sample changes nothing (R275). -/
@[simp] theorem State.samplePin_invalid (s : State) : s.samplePin .invalid = s := rfl

/-- Settles O43: the fields of `Button.sampleLevel_eq`, the statement's conditions being `Button.Accepts` and
`Button.Latches`. -/
theorem samplerStep : Obligations.SamplerStep := by
  intro s v
  refine ⟨s.samplePin_invalid, ?_⟩
  intro b run need accepted edge
  have haccepted : accepted ↔ b.Accepts s.cfg v := by rw [Button.Accepts, Cfg.debounce_toNat]; rfl
  have hedge : edge ↔ b.Latches s.cfg v := and_congr haccepted (and_congr_right fun _ => (Edge.accepts_not_iff _ v).symm)
  rw [haccepted, hedge]
  refine ⟨b.sampleLevel s.cfg v, rfl, ?_⟩
  rw [Button.sampleLevel_eq]
  exact ⟨rfl, b.extendRun_cnt_toNat v, fun h => if_pos h, fun h => if_neg h, fun h => ⟨if_pos h, if_pos h, if_pos h⟩,
    fun h => ⟨if_neg h, if_neg h, if_neg h⟩⟩

/-! ## A sequence of samples of one level (R272, R275) -/

/-- The sampler has seen `n` samples of `v` since its run and its debounced level were another. -/
structure State.Counted (s : State) (v : Bool) (n : Nat) : Prop where
  /-- The run that the next sample of `v` makes. -/
  run : s.button.runLength v = min (n + 1) 15
  /-- The level is accepted once the samples are enough. -/
  level : s.button.dlevel = some v ↔ s.cfg.debounce.toNat ≤ n

section
variable {s : State} {v : Bool} {n : Nat}

theorem State.counted_zero (hcand : s.button.cand ≠ some v) (hdlevel : s.button.dlevel ≠ some v) : s.Counted v 0 where
  run := by rw [Button.runLength, if_neg hcand]; rfl
  level := iff_of_false hdlevel (Nat.not_le.2 s.cfg.debounce_pos)

/-- A sample of the level is one more; DBN is at most 15, so that the saturation of CNT does not show. -/
theorem State.Counted.samplePin (h : s.Counted v n) : (s.samplePin (.level v)).Counted v (n + 1) where
  run := by
    rw [State.samplePin, Button.sampleLevel_eq, Button.runLength, if_pos rfl]
    dsimp only
    rw [Button.extendRun_cnt_toNat, h.run]
    omega
  level := by
    have hmax := s.cfg.debounce_le
    have hlevel := h.level
    rw [State.samplePin, Button.sampleLevel_eq]
    dsimp only
    split
    case isTrue haccepts =>
      have hrun := haccepts.1
      rw [h.run] at hrun
      exact iff_of_true rfl (by omega)
    case isFalse hrejects =>
      rw [Button.Accepts, h.run, not_and_not_right] at hrejects
      exact ⟨fun hv => Nat.le_succ_of_le (hlevel.1 hv), fun hn => hrejects (by omega)⟩

/-- Invalid samples do not count. -/
theorem State.Counted.foldl_samplePin {samples : List Sample} (hsamples : ∀ x ∈ samples, x = .level v ∨ x = .invalid)
    (h : s.Counted v n) :
    (samples.foldl State.samplePin s).button.dlevel = some v ↔
      s.cfg.debounce.toNat ≤ n + samples.count (.level v) := by
  induction samples generalizing s n with
  | nil => exact h.level
  | cons x rest ih =>
    obtain ⟨hx, hrest⟩ := List.forall_mem_cons.1 hsamples
    rw [List.foldl_cons]
    obtain rfl | rfl := hx
    · rw [ih hrest h.samplePin, List.count_cons_self, Nat.add_right_comm, Nat.add_assoc]
      rfl
    · rw [State.samplePin_invalid, ih hrest h, List.count_cons_of_ne (show Sample.invalid ≠ .level v from nofun)]

end

/-- Settles O44: nothing is counted at the start, and each sample of the level is counted. -/
theorem debounceCountsEqualSamples : Obligations.DebounceCountsEqualSamples := by
  intro s v samples hcand hdlevel hsamples
  rw [(State.counted_zero hcand hdlevel).foldl_samplePin hsamples, Nat.zero_add, Cfg.debounce_toNat]

/-! ## BTN_ARM_WAIT (R280, R281) -/

section
variable {s : State} {f : Flight}

/-- The end of the wait: the pending edge is taken and the command completes (R280). -/
theorem State.takeEdge_dropTurn_of_pend (hpend : s.button.pend = true) :
    s.dropTurn.takeEdge =
      { s.completed 0 [] none (if s.button.plevel then 1#32 else 0#32) with
        button := { s.button with pend := false, bst := .pressed } } := by
  have hlevel : zext32 (BitVec.ofBool s.button.plevel) = if s.button.plevel then 1#32 else 0#32 := by
    cases s.button.plevel <;> rfl
  have htaken : s.dropTurn.takeEdge =
      ({ s.dropTurn with button := { s.button with pend := false, bst := .pressed } } : State).finish none
        (zext32 (BitVec.ofBool s.button.plevel)) := if_pos hpend
  rw [htaken, hlevel]
  simp only [State.completed, List.append_nil]
  rfl

/-- A step of the wait takes the edge if there is one. -/
theorem ceSteps_awaitEdge (hf : s.ce = some f) (hpos : f.pos = 1) (n : Nat) :
    ceSteps btnArmWaitProg (n + 1) s = ceSteps btnArmWaitProg n s.takeEdge := by
  have hop : btnArmWaitProg.code[f.pos]? = some .awaitEdge := by rw [hpos]; rfl
  rw [ceSteps_op hf hop, runOp_awaitEdge]

/-- Without an edge the wait is a hold (R281). -/
theorem ceSteps_hold (hf : s.ce = some f) (hpos : f.pos = 1) (hpend : s.button.pend = false) (n : Nat) :
    ceSteps btnArmWaitProg n s = s := by
  have hstay : s.takeEdge = s := if_neg (by simp [hpend])
  induction n with
  | zero => rfl
  | succ n ih => rw [ceSteps_awaitEdge hf hpos, hstay, ih]

theorem exec_btnArmWait_eq (hf : s.ce = some f) (hpos : f.pos ≤ 1) :
    exec .btnArmWait s = .next (ceSteps btnArmWaitProg (s.world.moreSteps + 1) s.dropTurn) := by
  rw [exec_eq_runCommand]
  exact runCommand_of_ce hf (lt_of_le_of_lt hpos (show 1 < btnArmWaitProg.code.length by decide))

end

/-- Settles O45: the first operation of the turn arms, the others hold. -/
theorem btnArmDiscardsStaleEdge : Obligations.BtnArmDiscardsStaleEdge := by
  intro s h
  rw [exec_btnArmWait_eq h.1 (Nat.zero_le 1), ceSteps_op (s := s.dropTurn) h.1 rfl, runOp_arm, ceSteps_hold rfl rfl rfl]
  rfl

/-- Settles O46: without an edge every operation of the turn holds, with one the first ends the command. -/
theorem btnWaitReturnsNewLevel : Obligations.BtnWaitReturnsNewLevel := by
  intro s f hf hpos
  rw [exec_btnArmWait_eq hf hpos.le]
  refine ⟨fun hpend => ?hold, fun hpend => ?edge⟩
  case hold => rw [ceSteps_hold (s := s.dropTurn) hf hpos hpend]; rfl
  case edge =>
    rw [ceSteps_awaitEdge (s := s.dropTurn) hf hpos, State.takeEdge_dropTurn_of_pend hpend]
    exact congrArg _ (ceSteps_idle _ _ rfl)

end Sys2Proof.Machine

/-! # Reset (70_reset_and_hazards.md R340, R341)

A reset that takes effect is one equation (`State.driveReset_eq`): the start state with the history and the world that were
there. The reset values depend on neither. -/

namespace Sys2Proof.Machine

/-! ## The reset values -/

theorem caps0Word_eq_ofNat (p : Params) : caps0Word p = BitVec.ofNat 32 p.bufBytes := by
  rw [← caps0Word_toNat, BitVec.ofNat_toNat, BitVec.setWidth_eq]

theorem caps1Word_eq_ofNat (p : Params) : caps1Word p = BitVec.ofNat 32 p.cfgWords := by
  rw [← caps1Word_toNat, BitVec.ofNat_toNat, BitVec.setWidth_eq]

/-- The start state has the reset values, and neither the history nor the world is one of them (R341). -/
theorem resetWith_hasResetValues (p : Params) (events : List Event) (w : World) :
    State.hasResetValues { State.resetWith p with history := events, world := w } where
  ce := rfl
  status := by
    simp [statusWord, State.resetWith, State.busy, Button.level, Button.lvalid, errCode, Fst.code, Bst.code]
  fst := rfl
  button := rfl
  bus := rfl
  result := rfl
  cfg := by simp [cfgWord, State.resetWith, Edge.code]
  bufLen := rfl
  csrs := ⟨fun _ => csrRead_reserved _, caps0Word_eq_ofNat p, caps1Word_eq_ofNat p⟩
  irq := rfl
  memories := ⟨rfl, rfl⟩

/-! ## The reset input -/

section
variable {s : State} {asserted : Bool}

/-- Asserting reset, and releasing it while it is asserted, gives the start state with the history kept (R340, R341). -/
theorem State.driveReset_eq (h : asserted = true ∨ s.world.inReset = true) :
    s.driveReset asserted =
      { State.resetWith s.params with
        history := s.history
        world := { s.world with epoch := s.world.epoch + 1, inReset := asserted } } :=
  if_pos ((Bool.or_eq_true ..).mpr h)

/-- Releasing a released input does nothing (log entry 14). -/
theorem State.driveReset_released (h : s.world.inReset = false) : s.driveReset false = s :=
  if_neg (by simp [h])

/-- What a reset that takes effect leaves: the input as driven, the reset values, the parameters and the history. -/
theorem State.driveReset_resets (h : asserted = true ∨ s.world.inReset = true) :
    (s.driveReset asserted).world.inReset = asserted ∧ (s.driveReset asserted).hasResetValues ∧
    (s.driveReset asserted).params = s.params ∧ (s.driveReset asserted).history = s.history := by
  rw [State.driveReset_eq h]
  exact ⟨rfl, resetWith_hasResetValues _ _ _, rfl, rfl⟩

end

/-- Settles O55: the release and the assertion both reset, and the start state is a reset state with an empty history. -/
theorem resetValues : Obligations.ResetValues := by
  intro s
  exact ⟨fun hreset => State.driveReset_resets (.inr hreset), State.driveReset_resets (.inl rfl),
    State.driveReset_released, resetWith_hasResetValues _ [] _, resetWith_hasResetValues _ [] _⟩

/-- Settles O57, from the invariant of the start state, of which `State.reset` is the one for `Config.params`. -/
theorem resetMeetsInvariant : Obligations.ResetMeetsInvariant :=
  ⟨resetWith_inv Config.params, resetWith_inv⟩

end Sys2Proof.Machine
